-- ==== Sys2Proof/Word.lean ====
section
/-! DEFINITION. The words of the machine (00_scope.md R4, R5): bytes, 16-bit words, 2-bit shades. -/

namespace Sys2Proof

/-- A byte: the addressable unit and the general register width (00_scope.md R4). -/
abbrev Byte := BitVec 8

/-- A 16-bit word: an address, a pair view, SP or PC (00_scope.md R4). -/
abbrev Word := BitVec 16

/-- A shade: "a 2-bit number 0 to 3", 0 the lightest (61_ppu.md R423). -/
abbrev Shade := BitVec 2

end Sys2Proof
end

