-- ==== Sys2Proof/Config.lean ====
section
/-! DEFINITION. The implementation parameters of 00_scope.md R4 that are numbers. The open parameters CART and
BOOT_IMAGE are plain data of `Machine.State` (log 1). The spec leaves no value free (70_reset_and_hazards.md
R474), so there is no opaque constant here. -/

namespace Sys2Proof.Config

/-- Pixels of a line (00_scope.md R4 "screen: 160 by 144 pixels"). -/
def screenWidth : Nat := 160

/-- Visible lines of a frame (00_scope.md R4). -/
def screenHeight : Nat := 144

/-- `INT_DISPATCH_CYCLES`, the default the spec gives (60_exceptions.md R355; log 14). -/
def intDispatchCycles : Nat := 20

end Sys2Proof.Config
end

