-- ==== Sys2Proof/Syntax.lean ====
section
/-! DEFINITION. The instructions: one constructor per mnemonic of spec/opcode_table.json, in the table's order. The
eleven ILLEGAL rows are one constructor over the eleven opcodes (log 10); PREFIX_CB has one of its own, which the
decoder never makes (log 9). -/

namespace Sys2Proof

/-- The registers a 3-bit field names (30_encoding.md R103); field 6, `(HL)`, is no register and has rows of its own. -/
inductive Reg8 where
  | b | c | d | e | h | l | a
deriving DecidableEq, Repr

/-- The pairs of `LD rr,d16`, `INC rr`, `DEC rr`, `ADD HL,rr` (30_encoding.md R104). -/
inductive Pair where
  | bc | de | hl | sp
deriving DecidableEq, Repr

/-- The pairs of `PUSH` and `POP` (30_encoding.md R105). -/
inductive StackPair where
  | bc | de | hl | af
deriving DecidableEq, Repr

/-- The conditions (30_encoding.md R106). -/
inductive Cond where
  | nz | z | nc | c
deriving DecidableEq, Repr

/-- The eleven base opcodes with no InstructionTable entry (30_encoding.md R116). -/
inductive Hole where
  | xD3 | xDB | xDD | xE3 | xE4 | xEB | xEC | xED | xF4 | xFC | xFD
deriving DecidableEq, Repr

/-- The instruction set. An `e8` is the byte as encoded; its sign is the meaning's (30_encoding.md R111). -/
inductive Instr where
  /-- `NOP` (46_system.md R320). -/
  | nop
  /-- `LD rr,d16` (41_load16_stack.md R161). -/
  | ldRrD16 (rr : Pair) (d16 : Word)
  /-- `LD (BC),A` (40_load8.md R138). -/
  | ldMemBcA
  /-- `LD (DE),A` (40_load8.md R139). -/
  | ldMemDeA
  /-- `LD (HL+),A` (40_load8.md R146). -/
  | ldMemHliA
  /-- `LD (HL-),A` (40_load8.md R148). -/
  | ldMemHldA
  /-- `INC rr` (43_alu16.md R233). -/
  | incRr (rr : Pair)
  /-- `INC r` (42_alu8.md R208). -/
  | incR (r : Reg8)
  /-- `INC (HL)` (42_alu8.md R209). -/
  | incMemHl
  /-- `DEC r` (42_alu8.md R210). -/
  | decR (r : Reg8)
  /-- `DEC (HL)` (42_alu8.md R211). -/
  | decMemHl
  /-- `LD r,d8` (40_load8.md R132). -/
  | ldRD8 (r : Reg8) (d8 : Byte)
  /-- `LD (HL),d8` (40_load8.md R135). -/
  | ldMemHlD8 (d8 : Byte)
  /-- `RLCA` (44_rotate_shift_bit.md R251). -/
  | rlca
  /-- `RRCA` (44_rotate_shift_bit.md R252). -/
  | rrca
  /-- `RLA` (44_rotate_shift_bit.md R253). -/
  | rla
  /-- `RRA` (44_rotate_shift_bit.md R254). -/
  | rra
  /-- `DAA` (42_alu8.md R212). -/
  | daa
  /-- `CPL` (42_alu8.md R213). -/
  | cpl
  /-- `SCF` (42_alu8.md R214). -/
  | scf
  /-- `CCF` (42_alu8.md R215). -/
  | ccf
  /-- `LD (a16),SP` (41_load16_stack.md R162). -/
  | ldMemA16Sp (a16 : Word)
  /-- `ADD HL,rr` (43_alu16.md R232). -/
  | addHlRr (rr : Pair)
  /-- `LD A,(BC)` (40_load8.md R136). -/
  | ldAMemBc
  /-- `LD A,(DE)` (40_load8.md R137). -/
  | ldAMemDe
  /-- `LD A,(HL+)` (40_load8.md R147). -/
  | ldAMemHli
  /-- `LD A,(HL-)` (40_load8.md R149). -/
  | ldAMemHld
  /-- `DEC rr` (43_alu16.md R234). -/
  | decRr (rr : Pair)
  /-- `STOP` (46_system.md R322); the second byte is read and ignored (log 11). -/
  | stop (d8 : Byte)
  /-- `JR e8` (45_control.md R294). -/
  | jrE8 (e8 : Byte)
  /-- `JR cc,e8` (45_control.md R295). -/
  | jrCcE8 (cc : Cond) (e8 : Byte)
  /-- `LD r,r'` (40_load8.md R131). -/
  | ldRR (rd : Reg8) (rs : Reg8)
  /-- `LD r,(HL)` (40_load8.md R133). -/
  | ldRMemHl (r : Reg8)
  /-- `LD (HL),r` (40_load8.md R134). -/
  | ldMemHlR (r : Reg8)
  /-- `HALT` (46_system.md R321). -/
  | halt
  /-- `ADD A,r` (42_alu8.md R184). -/
  | addAR (r : Reg8)
  /-- `ADD A,(HL)` (42_alu8.md R185). -/
  | addAMemHl
  /-- `ADC A,r` (42_alu8.md R187). -/
  | adcAR (r : Reg8)
  /-- `ADC A,(HL)` (42_alu8.md R188). -/
  | adcAMemHl
  /-- `SUB A,r` (42_alu8.md R190). -/
  | subAR (r : Reg8)
  /-- `SUB A,(HL)` (42_alu8.md R191). -/
  | subAMemHl
  /-- `SBC A,r` (42_alu8.md R193). -/
  | sbcAR (r : Reg8)
  /-- `SBC A,(HL)` (42_alu8.md R194). -/
  | sbcAMemHl
  /-- `AND A,r` (42_alu8.md R196). -/
  | andAR (r : Reg8)
  /-- `AND A,(HL)` (42_alu8.md R197). -/
  | andAMemHl
  /-- `XOR A,r` (42_alu8.md R199). -/
  | xorAR (r : Reg8)
  /-- `XOR A,(HL)` (42_alu8.md R200). -/
  | xorAMemHl
  /-- `OR A,r` (42_alu8.md R202). -/
  | orAR (r : Reg8)
  /-- `OR A,(HL)` (42_alu8.md R203). -/
  | orAMemHl
  /-- `CP A,r` (42_alu8.md R205). -/
  | cpAR (r : Reg8)
  /-- `CP A,(HL)` (42_alu8.md R206). -/
  | cpAMemHl
  /-- `ADD A,d8` (42_alu8.md R186). -/
  | addAD8 (d8 : Byte)
  /-- `ADC A,d8` (42_alu8.md R189). -/
  | adcAD8 (d8 : Byte)
  /-- `SUB A,d8` (42_alu8.md R192). -/
  | subAD8 (d8 : Byte)
  /-- `SBC A,d8` (42_alu8.md R195). -/
  | sbcAD8 (d8 : Byte)
  /-- `AND A,d8` (42_alu8.md R198). -/
  | andAD8 (d8 : Byte)
  /-- `XOR A,d8` (42_alu8.md R201). -/
  | xorAD8 (d8 : Byte)
  /-- `OR A,d8` (42_alu8.md R204). -/
  | orAD8 (d8 : Byte)
  /-- `CP A,d8` (42_alu8.md R207). -/
  | cpAD8 (d8 : Byte)
  /-- `RET cc` (45_control.md R299). -/
  | retCc (cc : Cond)
  /-- `POP rr` (41_load16_stack.md R166); `POP AF` is a row of its own. -/
  | popRr (rr : StackPair)
  /-- `POP AF` (41_load16_stack.md R167). -/
  | popAf
  /-- `JP cc,a16` (45_control.md R292). -/
  | jpCcA16 (cc : Cond) (a16 : Word)
  /-- `JP a16` (45_control.md R291). -/
  | jpA16 (a16 : Word)
  /-- `CALL cc,a16` (45_control.md R297). -/
  | callCcA16 (cc : Cond) (a16 : Word)
  /-- `PUSH rr` (41_load16_stack.md R165). -/
  | pushRr (rr : StackPair)
  /-- `RST t` (45_control.md R301). -/
  | rst (t : BitVec 3)
  /-- `RET` (45_control.md R298). -/
  | ret
  /-- `RETI` (45_control.md R300). -/
  | reti
  /-- `PREFIX CB` (46_system.md R325); `op2` is the second byte. -/
  | prefixCb (op2 : Byte)
  /-- `CALL a16` (45_control.md R296). -/
  | callA16 (a16 : Word)
  /-- `LDH (a8),A` (40_load8.md R143). -/
  | ldhMemA8A (a8 : Byte)
  /-- `LDH A,(a8)` (40_load8.md R142). -/
  | ldhAMemA8 (a8 : Byte)
  /-- `LD (C),A` (40_load8.md R145). -/
  | ldMemCA
  /-- `LD A,(C)` (40_load8.md R144). -/
  | ldAMemC
  /-- `ADD SP,e8` (43_alu16.md R235). -/
  | addSpE8 (e8 : Byte)
  /-- `LD HL,SP+e8` (41_load16_stack.md R164). -/
  | ldHlSpE8 (e8 : Byte)
  /-- `JP (HL)` (45_control.md R293). -/
  | jpHl
  /-- `LD SP,HL` (41_load16_stack.md R163). -/
  | ldSpHl
  /-- `LD (a16),A` (40_load8.md R141). -/
  | ldMemA16A (a16 : Word)
  /-- `LD A,(a16)` (40_load8.md R140). -/
  | ldAMemA16 (a16 : Word)
  /-- `DI` (46_system.md R323). -/
  | di
  /-- `EI` (46_system.md R324). -/
  | ei
  /-- `ILLEGAL` (46_system.md R326), the eleven undefined opcodes. -/
  | illegal (hole : Hole)
  /-- `RLC r` (44_rotate_shift_bit.md R256). -/
  | rlcR (r : Reg8)
  /-- `RLC (HL)` (44_rotate_shift_bit.md R257). -/
  | rlcMemHl
  /-- `RRC r` (44_rotate_shift_bit.md R258). -/
  | rrcR (r : Reg8)
  /-- `RRC (HL)` (44_rotate_shift_bit.md R259). -/
  | rrcMemHl
  /-- `RL r` (44_rotate_shift_bit.md R260). -/
  | rlR (r : Reg8)
  /-- `RL (HL)` (44_rotate_shift_bit.md R261). -/
  | rlMemHl
  /-- `RR r` (44_rotate_shift_bit.md R262). -/
  | rrR (r : Reg8)
  /-- `RR (HL)` (44_rotate_shift_bit.md R263). -/
  | rrMemHl
  /-- `SLA r` (44_rotate_shift_bit.md R264). -/
  | slaR (r : Reg8)
  /-- `SLA (HL)` (44_rotate_shift_bit.md R265). -/
  | slaMemHl
  /-- `SRA r` (44_rotate_shift_bit.md R266). -/
  | sraR (r : Reg8)
  /-- `SRA (HL)` (44_rotate_shift_bit.md R267). -/
  | sraMemHl
  /-- `SWAP r` (44_rotate_shift_bit.md R268). -/
  | swapR (r : Reg8)
  /-- `SWAP (HL)` (44_rotate_shift_bit.md R269). -/
  | swapMemHl
  /-- `SRL r` (44_rotate_shift_bit.md R270). -/
  | srlR (r : Reg8)
  /-- `SRL (HL)` (44_rotate_shift_bit.md R271). -/
  | srlMemHl
  /-- `BIT b,r` (44_rotate_shift_bit.md R272). -/
  | bitR (b : BitVec 3) (r : Reg8)
  /-- `BIT b,(HL)` (44_rotate_shift_bit.md R273). -/
  | bitMemHl (b : BitVec 3)
  /-- `RES b,r` (44_rotate_shift_bit.md R274). -/
  | resR (b : BitVec 3) (r : Reg8)
  /-- `RES b,(HL)` (44_rotate_shift_bit.md R275). -/
  | resMemHl (b : BitVec 3)
  /-- `SET b,r` (44_rotate_shift_bit.md R276). -/
  | setR (b : BitVec 3) (r : Reg8)
  /-- `SET b,(HL)` (44_rotate_shift_bit.md R277). -/
  | setMemHl (b : BitVec 3)
deriving DecidableEq, Repr

end Sys2Proof
end

