-- ==== Sys2Proof/Machine/State.lean ====
section
/-! DEFINITION. The state of the machine (10_state.md) as plain data, the reasons a step can stop, and the state
after reset (10_state.md R40). -/

namespace Sys2Proof.Machine

/-- The fatal conditions, as the state records them: "It is either `none` or one of `NotReady`,
`UnknownOpcode(opcode, pc)`, `RegisterInvariantViolation`" (10_state.md R33). -/
inductive FatalCondition where
  /-- A step with no cartridge image (60_exceptions.md R342). -/
  | notReady
  /-- One of the eleven undefined opcodes was fetched at `pc` (60_exceptions.md R341). -/
  | unknownOpcode (opcode : Byte) (pc : Word)
  /-- "should be structurally unreachable" (60_exceptions.md R344): a pair has one storage, nothing raises this
  (log 21). -/
  | registerInvariantViolation
deriving DecidableEq, Repr

/-- Why a state has no step. -/
inductive Fault where
  /-- Raised by `step` in a state whose `fault` records the condition: "thereafter the machine has no step"
  (60_exceptions.md R345). Safe: the spec gives no next state (log 4). -/
  | fatal (c : FatalCondition)
  /-- Raised by `step` in a state with `stopped = 1`: "a terminal state that is not a fault" (46_system.md R322);
  the host's interface has no other word for "no next state". Safe (log 5). -/
  | stopped
deriving DecidableEq, Repr

/-- Why an instruction has no meaning. -/
inductive Refusal where
  /-- Raised by an arm of `exec` whose instruction has no meaning yet; no arm does. Safe. -/
  | notModelled (mnemonic : String)
deriving DecidableEq, Repr

/-- "`mode` in {OamScan, PixelTransfer, HBlank, VBlank}" (10_state.md R36). -/
inductive PpuMode where
  | hblank | vblank | oamScan | pixelTransfer
deriving DecidableEq, Repr

/-- A frame: "144 rows (index = LY, 0 top) of 160 shades (index = x, 0 left)" (61_ppu.md R423). -/
abbrev Frame := List (List Shade)

/-- Stored bytes: cells at rising addresses; an address that is not listed reads 0x00 (log 6). -/
abbrev Memory := List Host.Cell

/-- The register file (10_state.md R20, R24, R25). The pairs are views (R21). -/
structure Regs where
  a : Byte
  f : Byte
  b : Byte
  c : Byte
  d : Byte
  e : Byte
  h : Byte
  l : Byte
  sp : Word
  pc : Word
deriving DecidableEq, Repr

/-- The PPU's registers (10_state.md R34) and its other state (R36). -/
structure Ppu where
  lcdc : Byte
  /-- `STAT_EN`, "the stored part, bits 6:3" (61_ppu.md R403). -/
  statEn : Byte
  scy : Byte
  scx : Byte
  ly : Byte
  lyc : Byte
  dma : Byte
  bgp : Byte
  obp0 : Byte
  obp1 : Byte
  wy : Byte
  wx : Byte
  mode : PpuMode
  modeCycles : Nat
  work : Frame
  frames : List Frame
deriving DecidableEq, Repr

/-- The whole state of the CORE block. `mem` holds CART (0x0000-0x7FFF), VRAM, ERAM, WRAM, OAM and HRAM by bus
address (10_state.md R35); `boot` holds BOOT_IMAGE. CART, BOOT_IMAGE and `cartLoaded` are launch parameters no step
changes (log 1, 3). -/
structure State where
  regs : Regs
  ime : Bool
  imeDelay : Nat
  halted : Bool
  stopped : Bool
  bootOverlay : Bool
  fault : Option FatalCondition
  ifReg : Byte
  ieReg : Byte
  ppu : Ppu
  mem : Memory
  boot : Memory
  cartLoaded : Bool
  totalCycles : Nat
deriving DecidableEq, Repr

/-- The frame being composed, at reset: "all shades 0" (10_state.md R40). -/
def blankFrame : Frame :=
  List.replicate Config.screenHeight (List.replicate Config.screenWidth 0#2)

/-- The register file at reset (10_state.md R40). -/
def Regs.reset : Regs :=
  { a := 0x00#8, f := 0x00#8, b := 0x00#8, c := 0x00#8, d := 0x00#8, e := 0x00#8, h := 0x00#8, l := 0x00#8,
    sp := 0x0000#16, pc := 0x0000#16 }

/-- The PPU at reset (10_state.md R40). -/
def Ppu.reset : Ppu :=
  { lcdc := 0x00#8, statEn := 0x00#8, scy := 0x00#8, scx := 0x00#8, ly := 0x00#8, lyc := 0x00#8, dma := 0x00#8,
    bgp := 0x00#8, obp0 := 0x00#8, obp1 := 0x00#8, wy := 0x00#8, wx := 0x00#8, mode := .oamScan, modeCycles := 0,
    work := blankFrame, frames := [] }

/-- The machine right after reset (10_state.md R40, 70_reset_and_hazards.md R460): every value is the spec's, but
the launch parameters, here an image of length 0 and a boot image of zeros (log 1). -/
def State.reset : State :=
  { regs := Regs.reset, ime := false, imeDelay := 0, halted := false, stopped := false, bootOverlay := true,
    fault := none, ifReg := 0x00#8, ieReg := 0x00#8, ppu := Ppu.reset, mem := [], boot := [], cartLoaded := true,
    totalCycles := 0 }

end Sys2Proof.Machine
end

