-- ==== Sys2Proof/Machine/Memory.lean ====
section
/-! DEFINITION. Stored bytes: a list of cells in one canonical form, addresses strictly rising and no cell equal to
what an unlisted address reads as. -/

namespace Sys2Proof.Machine

/-- What an unlisted address reads as: "every byte 0x00" at reset (10_state.md R40), and 0x00 for a cartridge
offset beyond the image (20_memory.md R63). -/
def unlistedByte : Byte := 0x00#8

/-- The byte stored at key `k`. -/
def Memory.read (k : Nat) : Memory → Byte
  | [] => unlistedByte
  | c :: m => if c.1 = k then c.2 else Memory.read k m

/-- Put a cell at the head, unless it holds what an unlisted address reads as. -/
def Memory.consCell (k : Nat) (v : Byte) (m : Memory) : Memory :=
  if v = unlistedByte then m else (k, v) :: m

/-- Store `v` at key `k`, keeping the canonical form. -/
def Memory.write (k : Nat) (v : Byte) : Memory → Memory
  | [] => Memory.consCell k v []
  | c :: m =>
    if c.1 < k then c :: Memory.write k v m
    else if c.1 = k then Memory.consCell k v m
    else Memory.consCell k v (c :: m)

/-- The canonical form: addresses strictly rising, no cell equal to what an unlisted address reads as. -/
abbrev Memory.wf (m : Memory) : Prop :=
  m.Pairwise (fun c c' => c.1 < c'.1) ∧ ∀ c ∈ m, c.2 ≠ unlistedByte

/-- A sequence of bytes stored from key `k` on, in canonical form: how CART and BOOT_IMAGE are given. -/
def Memory.ofBytes : Nat → List Byte → Memory
  | _, [] => []
  | k, v :: vs => Memory.consCell k v (Memory.ofBytes (k + 1) vs)

end Sys2Proof.Machine
end

