-- ==== Sys2Proof/Machine/Bus.lean ====
section
/-! DEFINITION. The bus (20_memory.md): the address decoder, the PPU's register interface (61_ppu.md R401), the OAM
copy, reads and writes of a byte and of a word. -/

namespace Sys2Proof.Machine

/-- The backing regions of the address decoder (20_memory.md R61). -/
inductive Region where
  | bootImage | rom | vram | eram | wram | echo | oam | ifReg | ppu | hram | ieReg | unmapped
deriving DecidableEq, Repr

/-- The address decoder: the first matching row of 20_memory.md R61's table. -/
def region (overlay : Bool) (a : Word) : Region :=
  let n := a.toNat
  if n < 0x0100 ∧ overlay = true then .bootImage
  else if n < 0x8000 then .rom
  else if n < 0xA000 then .vram
  else if n < 0xC000 then .eram
  else if n < 0xE000 then .wram
  else if n < 0xFE00 then .echo
  else if n < 0xFEA0 then .oam
  else if n < 0xFF0F then .unmapped
  else if n < 0xFF10 then .ifReg
  else if n < 0xFF40 then .unmapped
  else if n < 0xFF4C then .ppu
  else if n < 0xFF80 then .unmapped
  else if n < 0xFFFF then .hram
  else .ieReg

/-! ### PPU registers (61_ppu.md R401) -/

/-- The twelve registers 0xFF40 to 0xFF4B in the order of their addresses (10_state.md R34). -/
inductive PpuReg where
  | lcdc | stat | scy | scx | ly | lyc | dma | bgp | obp0 | obp1 | wy | wx
deriving DecidableEq, Repr

/-- The register at an address of 0xFF40 to 0xFF4B (10_state.md R34). -/
def ppuRegAt (a : Word) : PpuReg :=
  match a.toNat - 0xFF40 with
  | 0 => .lcdc
  | 1 => .stat
  | 2 => .scy
  | 3 => .scx
  | 4 => .ly
  | 5 => .lyc
  | 6 => .dma
  | 7 => .bgp
  | 8 => .obp0
  | 9 => .obp1
  | 10 => .wy
  | _ => .wx

/-- The number STAT bits 1:0 report (61_ppu.md R410). -/
def PpuMode.number : PpuMode → Byte
  | .hblank => 0#8
  | .vblank => 1#8
  | .oamScan => 2#8
  | .pixelTransfer => 3#8

/-- STAT as it reads: `(STAT_EN & 0x78) | (LY = LYC ? 0x04 : 0) | mode` (61_ppu.md R401, R403). -/
def Ppu.stat (p : Ppu) : Byte :=
  (p.statEn &&& 0x78#8) ||| (if p.ly = p.lyc then 0x04#8 else 0x00#8) ||| p.mode.number

/-- `PpuRead` (61_ppu.md R401). -/
def Ppu.readReg (r : PpuReg) (p : Ppu) : Byte :=
  match r with
  | .lcdc => p.lcdc
  | .stat => p.stat
  | .scy => p.scy
  | .scx => p.scx
  | .ly => p.ly
  | .lyc => p.lyc
  | .dma => p.dma
  | .bgp => p.bgp
  | .obp0 => p.obp0
  | .obp1 => p.obp1
  | .wy => p.wy
  | .wx => p.wx

/-- What `PpuWrite` stores (61_ppu.md R401): STAT keeps bits 6:3 only, LY ignores the write; the copy a write of DMA
makes is `oamCopy`. -/
def Ppu.writeReg (r : PpuReg) (v : Byte) (p : Ppu) : Ppu :=
  match r with
  | .lcdc => { p with lcdc := v }
  | .stat => { p with statEn := v &&& 0x78#8 }
  | .scy => { p with scy := v }
  | .scx => { p with scx := v }
  | .ly => p
  | .lyc => { p with lyc := v }
  | .dma => { p with dma := v }
  | .bgp => { p with bgp := v }
  | .obp0 => { p with obp0 := v }
  | .obp1 => { p with obp1 := v }
  | .wy => { p with wy := v }
  | .wx => { p with wx := v }

/-! ### Bytes -/

/-- The echo of an address of 0xE000 to 0xFDFF: 0x2000 below (20_memory.md R68). -/
def echoKey (a : Word) : Nat := a.toNat - 0x2000

/-- `BusRead(a)` (20_memory.md R61). No read has a side effect (R71); an unmapped address reads 0x00 (R70). -/
def busRead (a : Word) (s : State) : Byte :=
  match region s.bootOverlay a with
  | .bootImage => s.boot.read a.toNat
  | .rom => s.mem.read a.toNat
  | .vram => s.mem.read a.toNat
  | .eram => s.mem.read a.toNat
  | .wram => s.mem.read a.toNat
  | .echo => s.mem.read (echoKey a)
  | .oam => s.mem.read a.toNat
  | .ifReg => s.ifReg
  | .ppu => s.ppu.readReg (ppuRegAt a)
  | .hram => s.mem.read a.toNat
  | .ieReg => s.ieReg
  | .unmapped => 0x00#8

/-- Store a byte in the cell with key `k`. -/
def State.writeCell (k : Nat) (v : Byte) (s : State) : State :=
  { s with mem := s.mem.write k v }

/-- One byte of the OAM copy: `OAM[i] <- BusRead((v << 8) + i)` (61_ppu.md R407). -/
def oamCopyByte (v : Byte) (s : State) (i : Nat) : State :=
  s.writeCell (0xFE00 + i) (busRead (BitVec.ofNat 16 (v.toNat * 256 + i)) s)

/-- The OAM copy: 160 bytes, in ascending order, each stored before the next is read (61_ppu.md R407). -/
def oamCopy (v : Byte) (s : State) : State :=
  (List.range 160).foldl (oamCopyByte v) s

/-- `PpuWrite` (61_ppu.md R401): the register, and for DMA the copy, which reads back the value just written. -/
def ppuWrite (r : PpuReg) (v : Byte) (s : State) : State :=
  let s' := { s with ppu := s.ppu.writeReg r v }
  match r with
  | .dma => oamCopy v s'
  | _ => s'

/-- `BusWrite(a, v)` (20_memory.md R61): ROM and overlay writes are discarded (R64), unmapped ones too (R70). -/
def busWrite (a : Word) (v : Byte) (s : State) : State :=
  match region s.bootOverlay a with
  | .bootImage => s
  | .rom => s
  | .vram => s.writeCell a.toNat v
  | .eram => s.writeCell a.toNat v
  | .wram => s.writeCell a.toNat v
  | .echo => s.writeCell (echoKey a) v
  | .oam => s.writeCell a.toNat v
  | .ifReg => { s with ifReg := v }
  | .ppu => ppuWrite (ppuRegAt a) v s
  | .hram => s.writeCell a.toNat v
  | .ieReg => { s with ieReg := v }
  | .unmapped => s

/-! ### Words (20_memory.md R76-R78) -/

/-- `v[7:0]`. -/
def lo (v : Word) : Byte := v.extractLsb' 0 8

/-- `v[15:8]`. -/
def hi (v : Word) : Byte := v.extractLsb' 8 8

/-- `a ++ b`: `a` in the high bits (00_scope.md R5). -/
def word (a b : Byte) : Word := a ++ b

/-- `MemRead(addr, 2)`: the byte at the lower address is the low half; `addr + 1` wraps (20_memory.md R76). -/
def memRead16 (a : Word) (s : State) : Word :=
  word (busRead (a + 1#16) s) (busRead a s)

/-- `MemWrite(addr, 2, v)`: low byte to the lower address, lower address first (20_memory.md R77). -/
def memWrite16 (a : Word) (v : Word) (s : State) : State :=
  busWrite (a + 1#16) (hi v) (busWrite a (lo v) s)

end Sys2Proof.Machine
end

