-- ==== Sys2Proof/Machine/Ops.lean ====
section
/-! DEFINITION. The named operations over registers and memory: register and pair access, PC writes and the overlay
latch, the stack, interrupt requests, taking an interrupt and returning from one, and fatal conditions. -/

namespace Sys2Proof.Machine

/-- What a meaning answers. -/
abbrev Out := Host.Outcome State Fault Refusal

/-! ### Registers (10_state.md R20-R24) -/

/-- Read an 8-bit register. -/
def State.reg (r : Reg8) (s : State) : Byte :=
  match r with
  | .b => s.regs.b
  | .c => s.regs.c
  | .d => s.regs.d
  | .e => s.regs.e
  | .h => s.regs.h
  | .l => s.regs.l
  | .a => s.regs.a

/-- Write an 8-bit register. -/
def State.setReg (r : Reg8) (v : Byte) (s : State) : State :=
  match r with
  | .b => { s with regs := { s.regs with b := v } }
  | .c => { s with regs := { s.regs with c := v } }
  | .d => { s with regs := { s.regs with d := v } }
  | .e => { s with regs := { s.regs with e := v } }
  | .h => { s with regs := { s.regs with h := v } }
  | .l => { s with regs := { s.regs with l := v } }
  | .a => { s with regs := { s.regs with a := v } }

/-- "a read of F always returns bits 3:0 as zero" (10_state.md R22; log 18). -/
def State.f (s : State) : Byte := s.regs.f &&& 0xF0#8

/-- "Every write of F from any source stores `v & 0xF0`" (10_state.md R22). -/
def State.setF (v : Byte) (s : State) : State :=
  { s with regs := { s.regs with f := v &&& 0xF0#8 } }

/-- Flag Z, bit 7 of F (10_state.md R22). -/
def State.fZ (s : State) : Bool := s.regs.f.getLsbD 7

/-- Flag N, bit 6 of F. -/
def State.fN (s : State) : Bool := s.regs.f.getLsbD 6

/-- Flag H, bit 5 of F. -/
def State.fH (s : State) : Bool := s.regs.f.getLsbD 5

/-- Flag C, bit 4 of F. -/
def State.fC (s : State) : Bool := s.regs.f.getLsbD 4

/-- A bit of F set or clear. -/
def flagBit (mask : Byte) (on : Bool) : Byte := if on then mask else 0x00#8

/-- The four flags packed (10_state.md R22). -/
def packFlags (z n h c : Bool) : Byte :=
  flagBit 0x80#8 z ||| flagBit 0x40#8 n ||| flagBit 0x20#8 h ||| flagBit 0x10#8 c

/-- Write all four flags. -/
def State.setFlags (z n h c : Bool) (s : State) : State := s.setF (packFlags z n h c)

/-- AF = A ++ F (10_state.md R21). -/
def State.af (s : State) : Word := word s.regs.a s.f

/-- BC = B ++ C. -/
def State.bc (s : State) : Word := word s.regs.b s.regs.c

/-- DE = D ++ E. -/
def State.de (s : State) : Word := word s.regs.d s.regs.e

/-- HL = H ++ L. -/
def State.hl (s : State) : Word := word s.regs.h s.regs.l

/-- Write AF: for F the byte is masked (10_state.md R21, R22). -/
def State.setAf (v : Word) (s : State) : State := (s.setReg .a (hi v)).setF (lo v)

/-- Write BC: both halves (10_state.md R21). -/
def State.setBc (v : Word) (s : State) : State := { s with regs := { s.regs with b := hi v, c := lo v } }

/-- Write DE. -/
def State.setDe (v : Word) (s : State) : State := { s with regs := { s.regs with d := hi v, e := lo v } }

/-- Write HL. -/
def State.setHl (v : Word) (s : State) : State := { s with regs := { s.regs with h := hi v, l := lo v } }

/-- Write SP. -/
def State.setSp (v : Word) (s : State) : State := { s with regs := { s.regs with sp := v } }

/-- `rr[i]` (30_encoding.md R104). -/
def State.pair (rr : Pair) (s : State) : Word :=
  match rr with
  | .bc => s.bc
  | .de => s.de
  | .hl => s.hl
  | .sp => s.regs.sp

/-- `rr[i] <- v`. -/
def State.setPair (rr : Pair) (v : Word) (s : State) : State :=
  match rr with
  | .bc => s.setBc v
  | .de => s.setDe v
  | .hl => s.setHl v
  | .sp => s.setSp v

/-- `rr2[i]` (30_encoding.md R105). -/
def State.stackPair (rr : StackPair) (s : State) : Word :=
  match rr with
  | .bc => s.bc
  | .de => s.de
  | .hl => s.hl
  | .af => s.af

/-- `rr2[i] <- v`. -/
def State.setStackPair (rr : StackPair) (v : Word) (s : State) : State :=
  match rr with
  | .bc => s.setBc v
  | .de => s.setDe v
  | .hl => s.setHl v
  | .af => s.setAf v

/-! ### PC and the boot-overlay latch -/

/-- `pc <- v`: the latch falls when the write leaves PC equal to 0x0100, and never rises (10_state.md R25, R32). -/
def State.setPc (v : Word) (s : State) : State :=
  { s with regs := { s.regs with pc := v }, bootOverlay := s.bootOverlay && v != 0x0100#16 }

/-! ### The stack (41_load16_stack.md R168) -/

/-- `push16(v)`: high byte first, at the higher address. -/
def push16 (v : Word) (s : State) : State :=
  let s := s.setSp (s.regs.sp - 1#16)
  let s := busWrite s.regs.sp (hi v) s
  let s := s.setSp (s.regs.sp - 1#16)
  busWrite s.regs.sp (lo v) s

/-- The word `pop16()` returns. -/
def popValue (s : State) : Word :=
  word (busRead (s.regs.sp + 1#16) s) (busRead s.regs.sp s)

/-- The state `pop16()` leaves: SP raised by 2. -/
def popState (s : State) : State := s.setSp (s.regs.sp + 2#16)

/-! ### Interrupts (60_exceptions.md R347-R358) -/

/-- `request(n)`: `IF <- IF | (1 << n)` (R350). -/
def State.request (n : Nat) (s : State) : State :=
  { s with ifReg := s.ifReg ||| (1#8 <<< n) }

/-- `pending = IE & IF & 0x1F` (R351). -/
def State.pending (s : State) : Byte := s.ieReg &&& s.ifReg &&& 0x1F#8

/-- "the lowest-numbered set bit" of `pending` (R352). -/
def State.lowestPending (s : State) : Option Nat :=
  (List.range 5).find? fun n => s.pending.getLsbD n

/-- The interrupt a step dispatches: none unless IME is set (R353). -/
def State.interruptToTake (s : State) : Option Nat :=
  if s.ime then s.lowestPending else none

/-- The vector of interrupt `n`: `0x0040 + 8n` (R347). -/
def vectorFor (n : Nat) : Word := BitVec.ofNat 16 (0x0040 + 8 * n)

/-- TAKING AN INTERRUPT, `Dispatch()` (R354): acknowledge the bit, clear IME and the `EI` delay, push PC, jump to the
vector, in this order. -/
def takeInterrupt (n : Nat) (s : State) : State :=
  let s := { s with ifReg := s.ifReg &&& ~~~(1#8 <<< n), ime := false, imeDelay := 0 }
  (push16 s.regs.pc s).setPc (vectorFor n)

/-- RETURNING FROM ONE (45_control.md R300): `pc <- pop16(); IME <- 1; ime_delay <- 0`. -/
def returnFromInterrupt (s : State) : State :=
  { (popState s).setPc (popValue s) with ime := true, imeDelay := 0 }

/-- `INT_DISPATCH_CYCLES`, added to the cost of the step that dispatches (R355). -/
def dispatchCycles : Nat := Config.intDispatchCycles

/-- `tick_ime()`, at the end of every CPU step (R356). -/
def tickIme (s : State) : State :=
  if s.imeDelay > 0 then { s with imeDelay := s.imeDelay - 1, ime := s.ime || s.imeDelay == 1 } else s

/-! ### Fatal conditions -/

/-- `raise <Condition>`: the condition is recorded, nothing else changes (60_exceptions.md R345, 10_state.md R33;
log 4). -/
def raiseFatal (c : FatalCondition) (s : State) : State := { s with fault := some c }

end Sys2Proof.Machine
end

