-- ==== Sys2Proof/Machine/Operands.lean ====
section
/-! DEFINITION. The operand forms (30_encoding.md R103-R111, R118): where an operand's value or address comes from. -/

namespace Sys2Proof.Machine

/-- The byte at address HL, operand `(HL)` (30_encoding.md R103). -/
def State.memHl (s : State) : Byte := busRead s.hl s

/-- The high-page address `0xFF00 + n`: operands `(a8)` and `(C)` (30_encoding.md R111, R118). -/
def highPage (n : Byte) : Word := word 0xFF#8 n

/-- `sext_16(e)` (00_scope.md R5): the signed displacement `e8` as a 16-bit addend. -/
def sext16 (e : Byte) : Word := if e.getLsbD 7 then word 0xFF#8 e else word 0x00#8 e

/-- The target of a relative jump, from the address of the next instruction (45_control.md R294). -/
def relTarget (e : Byte) (s : State) : Word := s.regs.pc + sext16 e

/-- The target of `RST t`: `8 * t` (30_encoding.md R110). -/
def rstTarget (t : BitVec 3) : Word := BitVec.ofNat 16 (8 * t.toNat)

/-- `cond(cc)` (45_control.md R290 c). -/
def State.cond (cc : Cond) (s : State) : Bool :=
  match cc with
  | .nz => !s.fZ
  | .z => s.fZ
  | .nc => !s.fC
  | .c => s.fC

/-- Store a byte through the bus and continue: every 8-bit store (40_load8.md R130). -/
def storeByte (a : Word) (v : Byte) (s : State) : State := busWrite a v s

/-- HL one up, for `(HL+)` (40_load8.md R146). -/
def incHl (s : State) : State := s.setHl (s.hl + 1#16)

/-- HL one down, for `(HL-)` (40_load8.md R148). -/
def decHl (s : State) : State := s.setHl (s.hl - 1#16)

end Sys2Proof.Machine
end

