-- ==== Sys2Proof/Machine/Flags.lean ====
section
/-! DEFINITION. Every result and flag computation (42_alu8.md R181-R183, R208-R215; 43_alu16.md R231, R232;
44_rotate_shift_bit.md R255, R272). Operands are taken as integers, computed exactly and narrowed at the end. -/

namespace Sys2Proof.Machine

/-- An 8-bit result with the four flags. -/
structure Alu8 where
  res : Byte
  z : Bool
  n : Bool
  h : Bool
  c : Bool
deriving DecidableEq, Repr

/-- A 16-bit result with the half-carry and the carry. -/
structure Alu16 where
  res : Word
  h : Bool
  c : Bool
deriving DecidableEq, Repr

/-- The low nibble as an integer: `v & 0x0F`. -/
def nibble (v : Byte) : Nat := v.toNat % 16

/-- `add8(a, x, cin)` (42_alu8.md R181). -/
def add8 (a x : Byte) (cin : Bool) : Alu8 :=
  let s := a.toNat + x.toNat + cin.toNat
  let r : Byte := BitVec.ofNat 8 s
  { res := r, z := r == 0, n := false, h := nibble a + nibble x + cin.toNat > 0x0F, c := s > 0xFF }

/-- `sub8(a, x, cin)` (42_alu8.md R182). -/
def sub8 (a x : Byte) (cin : Bool) : Alu8 :=
  let r : Byte := BitVec.ofInt 8 ((a.toNat : Int) - x.toNat - cin.toNat)
  { res := r, z := r == 0, n := true, h := nibble a < nibble x + cin.toNat, c := a.toNat < x.toNat + cin.toNat }

/-- A logic result: Z from the result, N = 0, H as given, C = 0 (42_alu8.md R183). -/
def logic8 (r : Byte) (h : Bool) : Alu8 := { res := r, z := r == 0, n := false, h := h, c := false }

/-- The eight accumulator operations (30_encoding.md R107). -/
inductive AluOp where
  | add | adc | sub | sbc | and | xor | or | cp
deriving DecidableEq, Repr

/-- Result and flags of an accumulator operation on A, the second operand and the Carry flag before it. -/
def AluOp.apply (op : AluOp) (a x : Byte) (fC : Bool) : Alu8 :=
  match op with
  | .add => add8 a x false
  | .adc => add8 a x fC
  | .sub => sub8 a x false
  | .sbc => sub8 a x fC
  | .and => logic8 (a &&& x) true
  | .xor => logic8 (a ^^^ x) false
  | .or => logic8 (a ||| x) false
  | .cp => sub8 a x false

/-- Write the four flags of a result. -/
def State.setAluFlags (o : Alu8) (s : State) : State := s.setFlags o.z o.n o.h o.c

/-- An accumulator operation with second operand `x`; `CP` discards the result (42_alu8.md R205). -/
def accumulate (op : AluOp) (x : Byte) (s : State) : State :=
  let o := op.apply s.regs.a x s.fC
  match op with
  | .cp => s.setAluFlags o
  | _ => (s.setReg .a o.res).setAluFlags o

/-- `INC` of a byte: Z, N = 0, H = ((v & 0x0F) = 0x0F); C is the flag before (42_alu8.md R208). -/
def inc8 (v : Byte) (fC : Bool) : Alu8 :=
  let r := v + 1#8
  { res := r, z := r == 0, n := false, h := nibble v == 0x0F, c := fC }

/-- `DEC` of a byte: Z, N = 1, H = ((v & 0x0F) = 0x00); C is the flag before (42_alu8.md R210). -/
def dec8 (v : Byte) (fC : Bool) : Alu8 :=
  let r := v - 1#8
  { res := r, z := r == 0, n := true, h := nibble v == 0x00, c := fC }

/-- `DAA`'s result and Carry from A, N, H and C (42_alu8.md R212). -/
def daaAdjust (a : Byte) (fN fH fC : Bool) : Byte × Bool :=
  if fN = false then
    let high := fC || a.toNat > 0x99
    let low := fH || nibble a > 0x09
    let a := if high then a + 0x60#8 else a
    let a := if low then a + 0x06#8 else a
    (a, high)
  else
    let a := if fC then a - 0x60#8 else a
    let a := if fH then a - 0x06#8 else a
    (a, fC)

/-- The eight rotates and shifts (30_encoding.md R108). -/
inductive RotOp where
  | rlc | rrc | rl | rr | sla | sra | swap | srl
deriving DecidableEq, Repr

/-- A bit as the byte 0 or 1. -/
def bitByte (b : Bool) : Byte := if b then 1#8 else 0#8

/-- Result and new Carry of a rotate or shift of `v`, with the Carry flag `c` before it (44_rotate_shift_bit.md
R255). -/
def RotOp.apply (op : RotOp) (v : Byte) (c : Bool) : Byte × Bool :=
  match op with
  | .rlc => ((v <<< 1) ||| bitByte (v.getLsbD 7), v.getLsbD 7)
  | .rrc => ((v >>> 1) ||| (bitByte (v.getLsbD 0) <<< 7), v.getLsbD 0)
  | .rl => ((v <<< 1) ||| bitByte c, v.getLsbD 7)
  | .rr => ((v >>> 1) ||| (bitByte c <<< 7), v.getLsbD 0)
  | .sla => (v <<< 1, v.getLsbD 7)
  | .sra => ((v >>> 1) ||| (v &&& 0x80#8), v.getLsbD 0)
  | .swap => (((v &&& 0x0F#8) <<< 4) ||| (v >>> 4), false)
  | .srl => (v >>> 1, v.getLsbD 0)

/-- Result and flags of the extended form: Z from the result, N = H = 0 (44_rotate_shift_bit.md R255). -/
def rotate8 (op : RotOp) (v : Byte) (c : Bool) : Alu8 :=
  let o := op.apply v c
  { res := o.1, z := o.1 == 0, n := false, h := false, c := o.2 }

/-- `addsp(e8)`: SP plus the signed byte, H and C from the unsigned addition of the low bytes (43_alu16.md R231,
90_conflicts.md C2). -/
def addSp (sp : Word) (e : Byte) : Alu16 :=
  { res := sp + sext16 e
    h := sp.toNat % 16 + nibble e > 0x0F
    c := sp.toNat % 256 + e.toNat > 0xFF }

/-- `ADD HL,rr`: H the carry out of bit 11, C out of bit 15 (43_alu16.md R232). -/
def addHl (hl x : Word) : Alu16 :=
  { res := hl + x
    h := hl.toNat % 4096 + x.toNat % 4096 > 0x0FFF
    c := hl.toNat + x.toNat > 0xFFFF }

/-- The mask `1 << b` (44_rotate_shift_bit.md R274). -/
def bitMask (b : BitVec 3) : Byte := 1#8 <<< b.toNat

/-- `v & ~(1 << b)` (44_rotate_shift_bit.md R274). -/
def clearBit (b : BitVec 3) (v : Byte) : Byte := v &&& ~~~(bitMask b)

/-- `v | (1 << b)` (44_rotate_shift_bit.md R276). -/
def setBit (b : BitVec 3) (v : Byte) : Byte := v ||| bitMask b

/-- `BIT b` of a byte: Z = 1 when the bit is 0; N = 0; H = 1; C unchanged (44_rotate_shift_bit.md R272). -/
def testBit (b : BitVec 3) (v : Byte) (s : State) : State :=
  s.setFlags (!v.getLsbD b.toNat) false true s.fC

end Sys2Proof.Machine
end

