-- ==== Sys2Proof/Machine/Alu16.lean ====
section
/-! DEFINITION. The meanings of the 16-bit arithmetic instructions (43_alu16.md R230-R235). -/

namespace Sys2Proof.Machine

/-- `ADD HL,rr` (R232): N = 0, H and C from bits 11 and 15, Z unchanged. -/
def execAddHlRr (rr : Pair) (s : State) : Out :=
  let o := addHl s.hl (s.pair rr)
  .next ((s.setHl o.res).setFlags s.fZ false o.h o.c)

/-- `INC rr` (R233): no flag. -/
def execIncRr (rr : Pair) (s : State) : Out := .next (s.setPair rr (s.pair rr + 1#16))

/-- `DEC rr` (R234): no flag. -/
def execDecRr (rr : Pair) (s : State) : Out := .next (s.setPair rr (s.pair rr - 1#16))

/-- `ADD SP,e8` (R235): Z = N = 0, H and C of R231. -/
def execAddSpE8 (e8 : Byte) (s : State) : Out :=
  let o := addSp s.regs.sp e8
  .next ((s.setSp o.res).setFlags false false o.h o.c)

end Sys2Proof.Machine
end

