-- ==== Sys2Proof/Machine/Alu8.lean ====
section
/-! DEFINITION. The meanings of the 8-bit arithmetic and logic instructions (42_alu8.md R180-R216): the eight
accumulator operations in three operand forms (R180), INC and DEC, and the accumulator and flag adjustments. -/

namespace Sys2Proof.Machine

/-- `ADD A,r` (R184). -/
def execAddAR (r : Reg8) (s : State) : Out := .next (accumulate .add (s.reg r) s)

/-- `ADD A,(HL)` (R185). -/
def execAddAMemHl (s : State) : Out := .next (accumulate .add s.memHl s)

/-- `ADD A,d8` (R186). -/
def execAddAD8 (d8 : Byte) (s : State) : Out := .next (accumulate .add d8 s)

/-- `ADC A,r` (R187). -/
def execAdcAR (r : Reg8) (s : State) : Out := .next (accumulate .adc (s.reg r) s)

/-- `ADC A,(HL)` (R188). -/
def execAdcAMemHl (s : State) : Out := .next (accumulate .adc s.memHl s)

/-- `ADC A,d8` (R189). -/
def execAdcAD8 (d8 : Byte) (s : State) : Out := .next (accumulate .adc d8 s)

/-- `SUB A,r` (R190). -/
def execSubAR (r : Reg8) (s : State) : Out := .next (accumulate .sub (s.reg r) s)

/-- `SUB A,(HL)` (R191). -/
def execSubAMemHl (s : State) : Out := .next (accumulate .sub s.memHl s)

/-- `SUB A,d8` (R192). -/
def execSubAD8 (d8 : Byte) (s : State) : Out := .next (accumulate .sub d8 s)

/-- `SBC A,r` (R193). -/
def execSbcAR (r : Reg8) (s : State) : Out := .next (accumulate .sbc (s.reg r) s)

/-- `SBC A,(HL)` (R194). -/
def execSbcAMemHl (s : State) : Out := .next (accumulate .sbc s.memHl s)

/-- `SBC A,d8` (R195). -/
def execSbcAD8 (d8 : Byte) (s : State) : Out := .next (accumulate .sbc d8 s)

/-- `AND A,r` (R196). -/
def execAndAR (r : Reg8) (s : State) : Out := .next (accumulate .and (s.reg r) s)

/-- `AND A,(HL)` (R197). -/
def execAndAMemHl (s : State) : Out := .next (accumulate .and s.memHl s)

/-- `AND A,d8` (R198). -/
def execAndAD8 (d8 : Byte) (s : State) : Out := .next (accumulate .and d8 s)

/-- `XOR A,r` (R199). -/
def execXorAR (r : Reg8) (s : State) : Out := .next (accumulate .xor (s.reg r) s)

/-- `XOR A,(HL)` (R200). -/
def execXorAMemHl (s : State) : Out := .next (accumulate .xor s.memHl s)

/-- `XOR A,d8` (R201). -/
def execXorAD8 (d8 : Byte) (s : State) : Out := .next (accumulate .xor d8 s)

/-- `OR A,r` (R202). -/
def execOrAR (r : Reg8) (s : State) : Out := .next (accumulate .or (s.reg r) s)

/-- `OR A,(HL)` (R203). -/
def execOrAMemHl (s : State) : Out := .next (accumulate .or s.memHl s)

/-- `OR A,d8` (R204). -/
def execOrAD8 (d8 : Byte) (s : State) : Out := .next (accumulate .or d8 s)

/-- `CP A,r` (R205). -/
def execCpAR (r : Reg8) (s : State) : Out := .next (accumulate .cp (s.reg r) s)

/-- `CP A,(HL)` (R206). -/
def execCpAMemHl (s : State) : Out := .next (accumulate .cp s.memHl s)

/-- `CP A,d8` (R207). -/
def execCpAD8 (d8 : Byte) (s : State) : Out := .next (accumulate .cp d8 s)

/-- `INC r` (R208). -/
def execIncR (r : Reg8) (s : State) : Out :=
  let o := inc8 (s.reg r) s.fC
  .next ((s.setReg r o.res).setAluFlags o)

/-- `INC (HL)` (R209): the flags come from the byte read, whatever the write does. -/
def execIncMemHl (s : State) : Out :=
  let o := inc8 s.memHl s.fC
  .next ((storeByte s.hl o.res s).setAluFlags o)

/-- `DEC r` (R210). -/
def execDecR (r : Reg8) (s : State) : Out :=
  let o := dec8 (s.reg r) s.fC
  .next ((s.setReg r o.res).setAluFlags o)

/-- `DEC (HL)` (R211). -/
def execDecMemHl (s : State) : Out :=
  let o := dec8 s.memHl s.fC
  .next ((storeByte s.hl o.res s).setAluFlags o)

/-- `DAA` (R212): Z from the result, H = 0, C as adjusted, N unchanged. -/
def execDaa (s : State) : Out :=
  let o := daaAdjust s.regs.a s.fN s.fH s.fC
  .next ((s.setReg .a o.1).setFlags (o.1 == 0) s.fN false o.2)

/-- `CPL` (R213): N = H = 1, Z and C unchanged. -/
def execCpl (s : State) : Out :=
  .next ((s.setReg .a (s.regs.a ^^^ 0xFF#8)).setFlags s.fZ true true s.fC)

/-- `SCF` (R214): N = H = 0, C = 1, Z unchanged. -/
def execScf (s : State) : Out := .next (s.setFlags s.fZ false false true)

/-- `CCF` (R215): N = H = 0, C complemented, Z unchanged. -/
def execCcf (s : State) : Out := .next (s.setFlags s.fZ false false (!s.fC))

end Sys2Proof.Machine
end

