-- ==== Sys2Proof/Machine/Control.lean ====
section
/-! DEFINITION. The meanings of the control transfers (45_control.md R290-R302). On entry PC is the address of the next
sequential instruction (R290 a); every write of PC is `State.setPc`, which evaluates the overlay latch (R290 b). -/

namespace Sys2Proof.Machine

/-- Call: `push16(PC); pc <- target` (R296, R301). -/
def callTo (target : Word) (s : State) : State := (push16 s.regs.pc s).setPc target

/-- Return: `pc <- pop16()` (R298). -/
def returnTo (s : State) : State := (popState s).setPc (popValue s)

/-- A transfer made only when the condition holds (R290 c, d). -/
def transferIf (cc : Cond) (taken : State → State) (s : State) : State :=
  if s.cond cc then taken s else s

/-- `JP a16` (R291). -/
def execJpA16 (a16 : Word) (s : State) : Out := .next (s.setPc a16)

/-- `JP cc,a16` (R292). -/
def execJpCcA16 (cc : Cond) (a16 : Word) (s : State) : Out := .next (transferIf cc (State.setPc a16) s)

/-- `JP (HL)` (R293): the target is the value of HL; no memory is read. -/
def execJpHl (s : State) : Out := .next (s.setPc s.hl)

/-- `JR e8` (R294). -/
def execJrE8 (e8 : Byte) (s : State) : Out := .next (s.setPc (relTarget e8 s))

/-- `JR cc,e8` (R295). -/
def execJrCcE8 (cc : Cond) (e8 : Byte) (s : State) : Out :=
  .next (transferIf cc (State.setPc (relTarget e8 s)) s)

/-- `CALL a16` (R296). -/
def execCallA16 (a16 : Word) (s : State) : Out := .next (callTo a16 s)

/-- `CALL cc,a16` (R297). -/
def execCallCcA16 (cc : Cond) (a16 : Word) (s : State) : Out := .next (transferIf cc (callTo a16) s)

/-- `RET` (R298). -/
def execRet (s : State) : Out := .next (returnTo s)

/-- `RET cc` (R299). -/
def execRetCc (cc : Cond) (s : State) : Out := .next (transferIf cc returnTo s)

/-- `RETI` (R300): IME is set at once. -/
def execReti (s : State) : Out := .next (returnFromInterrupt s)

/-- `RST t` (R301). -/
def execRst (t : BitVec 3) (s : State) : Out := .next (callTo (rstTarget t) s)

end Sys2Proof.Machine
end

