-- ==== Sys2Proof/Machine/Load16.lean ====
section
/-! DEFINITION. The meanings of the 16-bit loads and the stack instructions (41_load16_stack.md R160-R168). -/

namespace Sys2Proof.Machine

/-- `LD rr,d16` (R161). -/
def execLdRrD16 (rr : Pair) (d16 : Word) (s : State) : Out := .next (s.setPair rr d16)

/-- `LD (a16),SP` (R162): the low byte first (20_memory.md R77). -/
def execLdMemA16Sp (a16 : Word) (s : State) : Out := .next (memWrite16 a16 s.regs.sp s)

/-- `LD SP,HL` (R163). -/
def execLdSpHl (s : State) : Out := .next (s.setSp s.hl)

/-- `LD HL,SP+e8` (R164): the flags of `addsp` (43_alu16.md R231), Z = N = 0. -/
def execLdHlSpE8 (e8 : Byte) (s : State) : Out :=
  let o := addSp s.regs.sp e8
  .next ((s.setHl o.res).setFlags false false o.h o.c)

/-- `PUSH rr` (R165). -/
def execPushRr (rr : StackPair) (s : State) : Out := .next (push16 (s.stackPair rr) s)

/-- `POP rr` for BC, DE, HL (R166); `POP AF` is a row of its own. -/
def execPopRr (rr : StackPair) (s : State) : Out := .next ((popState s).setStackPair rr (popValue s))

/-- `POP AF` (R167): F takes the popped low byte `& 0xF0`. -/
def execPopAf (s : State) : Out := .next ((popState s).setAf (popValue s))

end Sys2Proof.Machine
end

