-- ==== Sys2Proof/Machine/Load8.lean ====
section
/-! DEFINITION. The meanings of the 8-bit loads and stores (40_load8.md R130-R149). In every meaning of the machine PC
has already been advanced past the instruction (00_scope.md R6; log 17). No instruction of this file writes a flag. -/

namespace Sys2Proof.Machine

/-- `LD r,r'` (R131). -/
def execLdRR (rd rs : Reg8) (s : State) : Out := .next (s.setReg rd (s.reg rs))

/-- `LD r,d8` (R132). -/
def execLdRD8 (r : Reg8) (d8 : Byte) (s : State) : Out := .next (s.setReg r d8)

/-- `LD r,(HL)` (R133). -/
def execLdRMemHl (r : Reg8) (s : State) : Out := .next (s.setReg r s.memHl)

/-- `LD (HL),r` (R134). -/
def execLdMemHlR (r : Reg8) (s : State) : Out := .next (storeByte s.hl (s.reg r) s)

/-- `LD (HL),d8` (R135). -/
def execLdMemHlD8 (d8 : Byte) (s : State) : Out := .next (storeByte s.hl d8 s)

/-- `LD A,(BC)` (R136). -/
def execLdAMemBc (s : State) : Out := .next (s.setReg .a (busRead s.bc s))

/-- `LD A,(DE)` (R137). -/
def execLdAMemDe (s : State) : Out := .next (s.setReg .a (busRead s.de s))

/-- `LD (BC),A` (R138). -/
def execLdMemBcA (s : State) : Out := .next (storeByte s.bc s.regs.a s)

/-- `LD (DE),A` (R139). -/
def execLdMemDeA (s : State) : Out := .next (storeByte s.de s.regs.a s)

/-- `LD A,(a16)` (R140). -/
def execLdAMemA16 (a16 : Word) (s : State) : Out := .next (s.setReg .a (busRead a16 s))

/-- `LD (a16),A` (R141). -/
def execLdMemA16A (a16 : Word) (s : State) : Out := .next (storeByte a16 s.regs.a s)

/-- `LDH A,(a8)` (R142). -/
def execLdhAMemA8 (a8 : Byte) (s : State) : Out := .next (s.setReg .a (busRead (highPage a8) s))

/-- `LDH (a8),A` (R143). -/
def execLdhMemA8A (a8 : Byte) (s : State) : Out := .next (storeByte (highPage a8) s.regs.a s)

/-- `LD A,(C)` (R144). -/
def execLdAMemC (s : State) : Out := .next (s.setReg .a (busRead (highPage s.regs.c) s))

/-- `LD (C),A` (R145). -/
def execLdMemCA (s : State) : Out := .next (storeByte (highPage s.regs.c) s.regs.a s)

/-- `LD (HL+),A` (R146). -/
def execLdMemHliA (s : State) : Out := .next (incHl (storeByte s.hl s.regs.a s))

/-- `LD A,(HL+)` (R147). -/
def execLdAMemHli (s : State) : Out := .next (incHl (s.setReg .a s.memHl))

/-- `LD (HL-),A` (R148). -/
def execLdMemHldA (s : State) : Out := .next (decHl (storeByte s.hl s.regs.a s))

/-- `LD A,(HL-)` (R149). -/
def execLdAMemHld (s : State) : Out := .next (decHl (s.setReg .a s.memHl))

end Sys2Proof.Machine
end

