-- ==== Sys2Proof/Machine/Rotate.lean ====
section
/-! DEFINITION. The meanings of the rotates, shifts and bit instructions (44_rotate_shift_bit.md R250-R277). -/

namespace Sys2Proof.Machine

/-- An accumulator rotate: Z = N = H = 0, C the bit rotated out (R251-R254). -/
def rotateAcc (op : RotOp) (s : State) : State :=
  let o := op.apply s.regs.a s.fC
  (s.setReg .a o.1).setFlags false false false o.2

/-- An extended rotate or shift of a register (R255). -/
def rotateReg (op : RotOp) (r : Reg8) (s : State) : State :=
  let o := rotate8 op (s.reg r) s.fC
  (s.setReg r o.res).setAluFlags o

/-- An extended rotate or shift of the byte at HL: read, modify, write; the flags come from the result, whatever the
write does (R250). -/
def rotateMemHl (op : RotOp) (s : State) : State :=
  let o := rotate8 op s.memHl s.fC
  (storeByte s.hl o.res s).setAluFlags o

/-- `RLCA` (R251). -/
def execRlca (s : State) : Out := .next (rotateAcc .rlc s)

/-- `RRCA` (R252). -/
def execRrca (s : State) : Out := .next (rotateAcc .rrc s)

/-- `RLA` (R253). -/
def execRla (s : State) : Out := .next (rotateAcc .rl s)

/-- `RRA` (R254). -/
def execRra (s : State) : Out := .next (rotateAcc .rr s)

/-- `RLC r` (R256). -/
def execRlcR (r : Reg8) (s : State) : Out := .next (rotateReg .rlc r s)

/-- `RLC (HL)` (R257). -/
def execRlcMemHl (s : State) : Out := .next (rotateMemHl .rlc s)

/-- `RRC r` (R258). -/
def execRrcR (r : Reg8) (s : State) : Out := .next (rotateReg .rrc r s)

/-- `RRC (HL)` (R259). -/
def execRrcMemHl (s : State) : Out := .next (rotateMemHl .rrc s)

/-- `RL r` (R260). -/
def execRlR (r : Reg8) (s : State) : Out := .next (rotateReg .rl r s)

/-- `RL (HL)` (R261). -/
def execRlMemHl (s : State) : Out := .next (rotateMemHl .rl s)

/-- `RR r` (R262). -/
def execRrR (r : Reg8) (s : State) : Out := .next (rotateReg .rr r s)

/-- `RR (HL)` (R263). -/
def execRrMemHl (s : State) : Out := .next (rotateMemHl .rr s)

/-- `SLA r` (R264). -/
def execSlaR (r : Reg8) (s : State) : Out := .next (rotateReg .sla r s)

/-- `SLA (HL)` (R265). -/
def execSlaMemHl (s : State) : Out := .next (rotateMemHl .sla s)

/-- `SRA r` (R266). -/
def execSraR (r : Reg8) (s : State) : Out := .next (rotateReg .sra r s)

/-- `SRA (HL)` (R267). -/
def execSraMemHl (s : State) : Out := .next (rotateMemHl .sra s)

/-- `SWAP r` (R268). -/
def execSwapR (r : Reg8) (s : State) : Out := .next (rotateReg .swap r s)

/-- `SWAP (HL)` (R269). -/
def execSwapMemHl (s : State) : Out := .next (rotateMemHl .swap s)

/-- `SRL r` (R270). -/
def execSrlR (r : Reg8) (s : State) : Out := .next (rotateReg .srl r s)

/-- `SRL (HL)` (R271). -/
def execSrlMemHl (s : State) : Out := .next (rotateMemHl .srl s)

/-- `BIT b,r` (R272). -/
def execBitR (b : BitVec 3) (r : Reg8) (s : State) : Out := .next (testBit b (s.reg r) s)

/-- `BIT b,(HL)` (R273): nothing is written but F. -/
def execBitMemHl (b : BitVec 3) (s : State) : Out := .next (testBit b s.memHl s)

/-- `RES b,r` (R274): no flag. -/
def execResR (b : BitVec 3) (r : Reg8) (s : State) : Out := .next (s.setReg r (clearBit b (s.reg r)))

/-- `RES b,(HL)` (R275). -/
def execResMemHl (b : BitVec 3) (s : State) : Out := .next (storeByte s.hl (clearBit b s.memHl) s)

/-- `SET b,r` (R276): no flag. -/
def execSetR (b : BitVec 3) (r : Reg8) (s : State) : Out := .next (s.setReg r (setBit b (s.reg r)))

/-- `SET b,(HL)` (R277). -/
def execSetMemHl (b : BitVec 3) (s : State) : Out := .next (storeByte s.hl (setBit b s.memHl) s)

end Sys2Proof.Machine
end

