-- ==== Sys2Proof/WellFormed.lean ====
section
/-! DEFINITION. Which terms of `Instr` are instructions of the opcode table. -/

namespace Sys2Proof

/-- Well-formed: the term stands for the words of exactly its own row. Two checks: `POP rr`'s field is "not 11"
(41_load16_stack.md R166, opcode_table.json), and the prefix byte "is not an instruction" (46_system.md R325), its
words are those of the extended instruction the second byte selects. -/
def Instr.wf : Instr → Bool
  | .nop => true
  | .ldRrD16 _ _ => true
  | .ldMemBcA => true
  | .ldMemDeA => true
  | .ldMemHliA => true
  | .ldMemHldA => true
  | .incRr _ => true
  | .incR _ => true
  | .incMemHl => true
  | .decR _ => true
  | .decMemHl => true
  | .ldRD8 _ _ => true
  | .ldMemHlD8 _ => true
  | .rlca => true
  | .rrca => true
  | .rla => true
  | .rra => true
  | .daa => true
  | .cpl => true
  | .scf => true
  | .ccf => true
  | .ldMemA16Sp _ => true
  | .addHlRr _ => true
  | .ldAMemBc => true
  | .ldAMemDe => true
  | .ldAMemHli => true
  | .ldAMemHld => true
  | .decRr _ => true
  | .stop _ => true
  | .jrE8 _ => true
  | .jrCcE8 _ _ => true
  | .ldRR _ _ => true
  | .ldRMemHl _ => true
  | .ldMemHlR _ => true
  | .halt => true
  | .addAR _ => true
  | .addAMemHl => true
  | .adcAR _ => true
  | .adcAMemHl => true
  | .subAR _ => true
  | .subAMemHl => true
  | .sbcAR _ => true
  | .sbcAMemHl => true
  | .andAR _ => true
  | .andAMemHl => true
  | .xorAR _ => true
  | .xorAMemHl => true
  | .orAR _ => true
  | .orAMemHl => true
  | .cpAR _ => true
  | .cpAMemHl => true
  | .addAD8 _ => true
  | .adcAD8 _ => true
  | .subAD8 _ => true
  | .sbcAD8 _ => true
  | .andAD8 _ => true
  | .xorAD8 _ => true
  | .orAD8 _ => true
  | .cpAD8 _ => true
  | .retCc _ => true
  | .popRr rr => rr != .af
  | .popAf => true
  | .jpCcA16 _ _ => true
  | .jpA16 _ => true
  | .callCcA16 _ _ => true
  | .pushRr _ => true
  | .rst _ => true
  | .ret => true
  | .reti => true
  | .prefixCb _ => false
  | .callA16 _ => true
  | .ldhMemA8A _ => true
  | .ldhAMemA8 _ => true
  | .ldMemCA => true
  | .ldAMemC => true
  | .addSpE8 _ => true
  | .ldHlSpE8 _ => true
  | .jpHl => true
  | .ldSpHl => true
  | .ldMemA16A _ => true
  | .ldAMemA16 _ => true
  | .di => true
  | .ei => true
  | .illegal _ => true
  | .rlcR _ => true
  | .rlcMemHl => true
  | .rrcR _ => true
  | .rrcMemHl => true
  | .rlR _ => true
  | .rlMemHl => true
  | .rrR _ => true
  | .rrMemHl => true
  | .slaR _ => true
  | .slaMemHl => true
  | .sraR _ => true
  | .sraMemHl => true
  | .swapR _ => true
  | .swapMemHl => true
  | .srlR _ => true
  | .srlMemHl => true
  | .bitR _ _ => true
  | .bitMemHl _ => true
  | .resR _ _ => true
  | .resMemHl _ => true
  | .setR _ _ => true
  | .setMemHl _ => true

end Sys2Proof
end

