-- ==== Sys2Proof/Decode.lean ====
section
/-! DEFINITION. Decoding (30_encoding.md R100-R117), total on any bytes, and the encoder written from the same
encoding tables. -/

namespace Sys2Proof

/-! ### Fields of an opcode byte (30_encoding.md R101) -/

/-- `x = op[7:6]`, the quadrant. -/
def fieldX (op : Byte) : Nat := op.toNat / 64

/-- `y = op[5:3]`. -/
def fieldY (op : Byte) : Nat := op.toNat / 8 % 8

/-- `z = op[2:0]`. -/
def fieldZ (op : Byte) : Nat := op.toNat % 8

/-- `p = op[5:4]`, the register pair. -/
def fieldP (op : Byte) : Nat := op.toNat / 16 % 4

/-- `q = op[3]`, the variant within a pair group. -/
def fieldQ (op : Byte) : Nat := op.toNat / 8 % 2

/-- `cc = op[4:3]` (30_encoding.md R106). -/
def fieldCc (op : Byte) : Nat := op.toNat / 8 % 4

/-! ### Numbers of the operand fields -/

/-- The register a 3-bit field names; 6 is `(HL)`, no register (30_encoding.md R103). -/
def Reg8.ofCode : Nat → Option Reg8
  | 0 => some .b
  | 1 => some .c
  | 2 => some .d
  | 3 => some .e
  | 4 => some .h
  | 5 => some .l
  | 7 => some .a
  | _ => none

/-- The field of a register (30_encoding.md R103). -/
def Reg8.code : Reg8 → Nat
  | .b => 0
  | .c => 1
  | .d => 2
  | .e => 3
  | .h => 4
  | .l => 5
  | .a => 7

/-- 0 = BC, 1 = DE, 2 = HL, 3 = SP (30_encoding.md R104). -/
def Pair.ofCode : Nat → Pair
  | 0 => .bc
  | 1 => .de
  | 2 => .hl
  | _ => .sp

/-- The field of a pair (30_encoding.md R104). -/
def Pair.code : Pair → Nat
  | .bc => 0
  | .de => 1
  | .hl => 2
  | .sp => 3

/-- 0 = BC, 1 = DE, 2 = HL, 3 = AF (30_encoding.md R105). -/
def StackPair.ofCode : Nat → StackPair
  | 0 => .bc
  | 1 => .de
  | 2 => .hl
  | _ => .af

/-- The field of a stack pair (30_encoding.md R105). -/
def StackPair.code : StackPair → Nat
  | .bc => 0
  | .de => 1
  | .hl => 2
  | .af => 3

/-- 0 = NZ, 1 = Z, 2 = NC, 3 = C (30_encoding.md R106). -/
def Cond.ofCode : Nat → Cond
  | 0 => .nz
  | 1 => .z
  | 2 => .nc
  | _ => .c

/-- The field of a condition (30_encoding.md R106). -/
def Cond.code : Cond → Nat
  | .nz => 0
  | .z => 1
  | .nc => 2
  | .c => 3

/-- The byte of an undefined opcode (30_encoding.md R116). -/
def Hole.opcode : Hole → Byte
  | .xD3 => 0xD3#8
  | .xDB => 0xDB#8
  | .xDD => 0xDD#8
  | .xE3 => 0xE3#8
  | .xE4 => 0xE4#8
  | .xEB => 0xEB#8
  | .xEC => 0xEC#8
  | .xED => 0xED#8
  | .xF4 => 0xF4#8
  | .xFC => 0xFC#8
  | .xFD => 0xFD#8

/-! ### Immediates and lengths -/

/-- A 16-bit immediate: `b2 ++ b1`, byte 1 the low half (30_encoding.md R111). -/
def imm16 (b1 b2 : Byte) : Word := b2 ++ b1

/-- The low half of a 16-bit immediate, stored first (30_encoding.md R111). -/
def lowByte (w : Word) : Byte := w.extractLsb' 0 8

/-- The high half of a 16-bit immediate (30_encoding.md R111). -/
def highByte (w : Word) : Byte := w.extractLsb' 8 8

/-- "Base opcodes of length 2" (30_encoding.md R113), the prefix among them. -/
def opcodesOfLength2 : List Nat :=
  [0x06, 0x0E, 0x16, 0x1E, 0x26, 0x2E, 0x36, 0x3E, 0x10, 0x18, 0x20, 0x28, 0x30, 0x38] ++
  [0xC6, 0xCE, 0xD6, 0xDE, 0xE6, 0xEE, 0xF6, 0xFE, 0xE0, 0xF0, 0xE8, 0xF8, 0xCB]

/-- "Of length 3" (30_encoding.md R113). -/
def opcodesOfLength3 : List Nat :=
  [0x01, 0x11, 0x21, 0x31, 0x08, 0xC2, 0xCA, 0xD2, 0xDA, 0xC3, 0xC4, 0xCC, 0xD4, 0xDC, 0xCD, 0xEA, 0xFA]

/-- How many bytes of an instruction follow its first byte: "a function of its first byte alone"
(30_encoding.md R113). -/
def bytesAfter (op : Byte) : Nat :=
  if op.toNat ∈ opcodesOfLength2 then 1 else if op.toNat ∈ opcodesOfLength3 then 2 else 0

/-! ### The opcode maps -/

/-- The eight accumulator operations by number (30_encoding.md R107), register operand. -/
def aluReg : Nat → Reg8 → Instr
  | 0, r => .addAR r
  | 1, r => .adcAR r
  | 2, r => .subAR r
  | 3, r => .sbcAR r
  | 4, r => .andAR r
  | 5, r => .xorAR r
  | 6, r => .orAR r
  | _, r => .cpAR r

/-- The eight accumulator operations by number (30_encoding.md R107), operand `(HL)`. -/
def aluMemHl : Nat → Instr
  | 0 => .addAMemHl
  | 1 => .adcAMemHl
  | 2 => .subAMemHl
  | 3 => .sbcAMemHl
  | 4 => .andAMemHl
  | 5 => .xorAMemHl
  | 6 => .orAMemHl
  | _ => .cpAMemHl

/-- The eight accumulator operations by number (30_encoding.md R107), immediate operand. -/
def aluImm : Nat → Byte → Instr
  | 0, d => .addAD8 d
  | 1, d => .adcAD8 d
  | 2, d => .subAD8 d
  | 3, d => .sbcAD8 d
  | 4, d => .andAD8 d
  | 5, d => .xorAD8 d
  | 6, d => .orAD8 d
  | _, d => .cpAD8 d

/-- Quadrant `x = 0` of the base map (30_encoding.md R114). -/
def decodeQuadrant0 (op b1 b2 : Byte) : Instr :=
  match fieldZ op with
  | 0 =>
    match fieldY op with
    | 0 => .nop
    | 1 => .ldMemA16Sp (imm16 b1 b2)
    | 2 => .stop b1
    | 3 => .jrE8 b1
    | _ => .jrCcE8 (.ofCode (fieldCc op)) b1
  | 1 => if fieldQ op = 0 then .ldRrD16 (.ofCode (fieldP op)) (imm16 b1 b2) else .addHlRr (.ofCode (fieldP op))
  | 2 =>
    match fieldY op with
    | 0 => .ldMemBcA
    | 1 => .ldAMemBc
    | 2 => .ldMemDeA
    | 3 => .ldAMemDe
    | 4 => .ldMemHliA
    | 5 => .ldAMemHli
    | 6 => .ldMemHldA
    | _ => .ldAMemHld
  | 3 => if fieldQ op = 0 then .incRr (.ofCode (fieldP op)) else .decRr (.ofCode (fieldP op))
  | 4 =>
    match Reg8.ofCode (fieldY op) with
    | some r => .incR r
    | none => .incMemHl
  | 5 =>
    match Reg8.ofCode (fieldY op) with
    | some r => .decR r
    | none => .decMemHl
  | 6 =>
    match Reg8.ofCode (fieldY op) with
    | some r => .ldRD8 r b1
    | none => .ldMemHlD8 b1
  | _ =>
    match fieldY op with
    | 0 => .rlca
    | 1 => .rrca
    | 2 => .rla
    | 3 => .rra
    | 4 => .daa
    | 5 => .cpl
    | 6 => .scf
    | _ => .ccf

/-- Quadrant `x = 1`: `LD r[y], r[z]`, but 0x76 is `HALT` (30_encoding.md R114). -/
def decodeQuadrant1 (op : Byte) : Instr :=
  match Reg8.ofCode (fieldY op), Reg8.ofCode (fieldZ op) with
  | some rd, some rs => .ldRR rd rs
  | some rd, none => .ldRMemHl rd
  | none, some rs => .ldMemHlR rs
  | none, none => .halt

/-- Quadrant `x = 2`: `alu[y] A, r[z]` (30_encoding.md R114). -/
def decodeQuadrant2 (op : Byte) : Instr :=
  match Reg8.ofCode (fieldZ op) with
  | some r => aluReg (fieldY op) r
  | none => aluMemHl (fieldY op)

/-- The rotates and shifts by number, register operand (30_encoding.md R108). -/
def rotReg : Nat → Reg8 → Instr
  | 0, r => .rlcR r
  | 1, r => .rrcR r
  | 2, r => .rlR r
  | 3, r => .rrR r
  | 4, r => .slaR r
  | 5, r => .sraR r
  | 6, r => .swapR r
  | _, r => .srlR r

/-- The rotates and shifts by number, operand `(HL)` (30_encoding.md R108). -/
def rotMemHl : Nat → Instr
  | 0 => .rlcMemHl
  | 1 => .rrcMemHl
  | 2 => .rlMemHl
  | 3 => .rrMemHl
  | 4 => .slaMemHl
  | 5 => .sraMemHl
  | 6 => .swapMemHl
  | _ => .srlMemHl

/-- The extended map: the second byte after 0xCB (30_encoding.md R115, 44_rotate_shift_bit.md R250). -/
def decodeExtended (op2 : Byte) : Instr :=
  let bit : BitVec 3 := BitVec.ofNat 3 (fieldY op2)
  match fieldX op2, Reg8.ofCode (fieldZ op2) with
  | 0, some r => rotReg (fieldY op2) r
  | 0, none => rotMemHl (fieldY op2)
  | 1, some r => .bitR bit r
  | 1, none => .bitMemHl bit
  | 2, some r => .resR bit r
  | 2, none => .resMemHl bit
  | _, some r => .setR bit r
  | _, none => .setMemHl bit

/-- Quadrant `x = 3` of the base map: control transfer, stack, immediate ALU, high-page loads, the prefix and the
eleven holes (30_encoding.md R114, R112, R116). -/
def decodeQuadrant3 (op b1 b2 : Byte) : Instr :=
  match fieldZ op with
  | 0 =>
    match fieldY op with
    | 4 => .ldhMemA8A b1
    | 5 => .addSpE8 b1
    | 6 => .ldhAMemA8 b1
    | 7 => .ldHlSpE8 b1
    | _ => .retCc (.ofCode (fieldCc op))
  | 1 =>
    match fieldY op with
    | 1 => .ret
    | 3 => .reti
    | 5 => .jpHl
    | 7 => .ldSpHl
    | 6 => .popAf
    | _ => .popRr (.ofCode (fieldP op))
  | 2 =>
    match fieldY op with
    | 4 => .ldMemCA
    | 5 => .ldMemA16A (imm16 b1 b2)
    | 6 => .ldAMemC
    | 7 => .ldAMemA16 (imm16 b1 b2)
    | _ => .jpCcA16 (.ofCode (fieldCc op)) (imm16 b1 b2)
  | 3 =>
    match fieldY op with
    | 0 => .jpA16 (imm16 b1 b2)
    | 1 => decodeExtended b1
    | 2 => .illegal .xD3
    | 3 => .illegal .xDB
    | 4 => .illegal .xE3
    | 5 => .illegal .xEB
    | 6 => .di
    | _ => .ei
  | 4 =>
    match fieldY op with
    | 4 => .illegal .xE4
    | 5 => .illegal .xEC
    | 6 => .illegal .xF4
    | 7 => .illegal .xFC
    | _ => .callCcA16 (.ofCode (fieldCc op)) (imm16 b1 b2)
  | 5 =>
    match fieldY op with
    | 1 => .callA16 (imm16 b1 b2)
    | 3 => .illegal .xDD
    | 5 => .illegal .xED
    | 7 => .illegal .xFD
    | _ => .pushRr (.ofCode (fieldP op))
  | 6 => aluImm (fieldY op) b1
  | _ => .rst (BitVec.ofNat 3 (fieldY op))

/-- The instruction whose first byte is `b0` and whose next two bytes, where it has them, are `b1` and `b2`. Total:
every first byte is an instruction, the prefix, or one of the eleven holes (30_encoding.md R116). -/
def decodeBytes (b0 b1 b2 : Byte) : Instr :=
  match fieldX b0 with
  | 0 => decodeQuadrant0 b0 b1 b2
  | 1 => decodeQuadrant1 b0
  | 2 => decodeQuadrant2 b0
  | _ => decodeQuadrant3 b0 b1 b2

/-- Why a list of bytes holds no instruction: the only reasons there are. -/
inductive DecodeReject where
  /-- There is no first byte. -/
  | noBytes
  /-- The list ends before the instruction that `opcode` begins. -/
  | truncated (opcode : Byte)
deriving DecidableEq, Repr

/-- Decode the instruction at the head of a list of bytes, and give the rest of the list. -/
def decode : List Byte → Except DecodeReject (Instr × List Byte)
  | [] => .error .noBytes
  | b0 :: rest =>
    match bytesAfter b0, rest with
    | 0, rest => .ok (decodeBytes b0 0 0, rest)
    | 1, b1 :: rest => .ok (decodeBytes b0 b1 0, rest)
    | 2, b1 :: b2 :: rest => .ok (decodeBytes b0 b1 b2, rest)
    | _, _ => .error (.truncated b0)

/-! ### The encoder -/

/-- An opcode byte from its number. -/
def opcode (n : Nat) : Byte := BitVec.ofNat 8 n

/-- The bytes of an instruction, from the encoding line of each instruction rule and 30_encoding.md R100. -/
def encode : Instr → List Byte
  | .nop => [0x00#8]
  | .ldRrD16 rr d16 => [opcode (0x01 + 0x10 * rr.code), lowByte d16, highByte d16]
  | .ldMemBcA => [0x02#8]
  | .ldMemDeA => [0x12#8]
  | .ldMemHliA => [0x22#8]
  | .ldMemHldA => [0x32#8]
  | .incRr rr => [opcode (0x03 + 0x10 * rr.code)]
  | .incR r => [opcode (0x04 + 0x08 * r.code)]
  | .incMemHl => [0x34#8]
  | .decR r => [opcode (0x05 + 0x08 * r.code)]
  | .decMemHl => [0x35#8]
  | .ldRD8 r d8 => [opcode (0x06 + 0x08 * r.code), d8]
  | .ldMemHlD8 d8 => [0x36#8, d8]
  | .rlca => [0x07#8]
  | .rrca => [0x0F#8]
  | .rla => [0x17#8]
  | .rra => [0x1F#8]
  | .daa => [0x27#8]
  | .cpl => [0x2F#8]
  | .scf => [0x37#8]
  | .ccf => [0x3F#8]
  | .ldMemA16Sp a16 => [0x08#8, lowByte a16, highByte a16]
  | .addHlRr rr => [opcode (0x09 + 0x10 * rr.code)]
  | .ldAMemBc => [0x0A#8]
  | .ldAMemDe => [0x1A#8]
  | .ldAMemHli => [0x2A#8]
  | .ldAMemHld => [0x3A#8]
  | .decRr rr => [opcode (0x0B + 0x10 * rr.code)]
  | .stop d8 => [0x10#8, d8]
  | .jrE8 e8 => [0x18#8, e8]
  | .jrCcE8 cc e8 => [opcode (0x20 + 0x08 * cc.code), e8]
  | .ldRR rd rs => [opcode (0x40 + 0x08 * rd.code + rs.code)]
  | .ldRMemHl r => [opcode (0x46 + 0x08 * r.code)]
  | .ldMemHlR r => [opcode (0x70 + r.code)]
  | .halt => [0x76#8]
  | .addAR r => [opcode (0x80 + r.code)]
  | .addAMemHl => [0x86#8]
  | .adcAR r => [opcode (0x88 + r.code)]
  | .adcAMemHl => [0x8E#8]
  | .subAR r => [opcode (0x90 + r.code)]
  | .subAMemHl => [0x96#8]
  | .sbcAR r => [opcode (0x98 + r.code)]
  | .sbcAMemHl => [0x9E#8]
  | .andAR r => [opcode (0xA0 + r.code)]
  | .andAMemHl => [0xA6#8]
  | .xorAR r => [opcode (0xA8 + r.code)]
  | .xorAMemHl => [0xAE#8]
  | .orAR r => [opcode (0xB0 + r.code)]
  | .orAMemHl => [0xB6#8]
  | .cpAR r => [opcode (0xB8 + r.code)]
  | .cpAMemHl => [0xBE#8]
  | .addAD8 d8 => [0xC6#8, d8]
  | .adcAD8 d8 => [0xCE#8, d8]
  | .subAD8 d8 => [0xD6#8, d8]
  | .sbcAD8 d8 => [0xDE#8, d8]
  | .andAD8 d8 => [0xE6#8, d8]
  | .xorAD8 d8 => [0xEE#8, d8]
  | .orAD8 d8 => [0xF6#8, d8]
  | .cpAD8 d8 => [0xFE#8, d8]
  | .retCc cc => [opcode (0xC0 + 0x08 * cc.code)]
  | .popRr rr => [opcode (0xC1 + 0x10 * rr.code)]
  | .popAf => [0xF1#8]
  | .jpCcA16 cc a16 => [opcode (0xC2 + 0x08 * cc.code), lowByte a16, highByte a16]
  | .jpA16 a16 => [0xC3#8, lowByte a16, highByte a16]
  | .callCcA16 cc a16 => [opcode (0xC4 + 0x08 * cc.code), lowByte a16, highByte a16]
  | .pushRr rr => [opcode (0xC5 + 0x10 * rr.code)]
  | .rst t => [opcode (0xC7 + 0x08 * t.toNat)]
  | .ret => [0xC9#8]
  | .reti => [0xD9#8]
  | .prefixCb op2 => [0xCB#8, op2]
  | .callA16 a16 => [0xCD#8, lowByte a16, highByte a16]
  | .ldhMemA8A a8 => [0xE0#8, a8]
  | .ldhAMemA8 a8 => [0xF0#8, a8]
  | .ldMemCA => [0xE2#8]
  | .ldAMemC => [0xF2#8]
  | .addSpE8 e8 => [0xE8#8, e8]
  | .ldHlSpE8 e8 => [0xF8#8, e8]
  | .jpHl => [0xE9#8]
  | .ldSpHl => [0xF9#8]
  | .ldMemA16A a16 => [0xEA#8, lowByte a16, highByte a16]
  | .ldAMemA16 a16 => [0xFA#8, lowByte a16, highByte a16]
  | .di => [0xF3#8]
  | .ei => [0xFB#8]
  | .illegal hole => [hole.opcode]
  | .rlcR r => [0xCB#8, opcode (0x00 + r.code)]
  | .rlcMemHl => [0xCB#8, 0x06#8]
  | .rrcR r => [0xCB#8, opcode (0x08 + r.code)]
  | .rrcMemHl => [0xCB#8, 0x0E#8]
  | .rlR r => [0xCB#8, opcode (0x10 + r.code)]
  | .rlMemHl => [0xCB#8, 0x16#8]
  | .rrR r => [0xCB#8, opcode (0x18 + r.code)]
  | .rrMemHl => [0xCB#8, 0x1E#8]
  | .slaR r => [0xCB#8, opcode (0x20 + r.code)]
  | .slaMemHl => [0xCB#8, 0x26#8]
  | .sraR r => [0xCB#8, opcode (0x28 + r.code)]
  | .sraMemHl => [0xCB#8, 0x2E#8]
  | .swapR r => [0xCB#8, opcode (0x30 + r.code)]
  | .swapMemHl => [0xCB#8, 0x36#8]
  | .srlR r => [0xCB#8, opcode (0x38 + r.code)]
  | .srlMemHl => [0xCB#8, 0x3E#8]
  | .bitR b r => [0xCB#8, opcode (0x40 + 0x08 * b.toNat + r.code)]
  | .bitMemHl b => [0xCB#8, opcode (0x46 + 0x08 * b.toNat)]
  | .resR b r => [0xCB#8, opcode (0x80 + 0x08 * b.toNat + r.code)]
  | .resMemHl b => [0xCB#8, opcode (0x86 + 0x08 * b.toNat)]
  | .setR b r => [0xCB#8, opcode (0xC0 + 0x08 * b.toNat + r.code)]
  | .setMemHl b => [0xCB#8, opcode (0xC6 + 0x08 * b.toNat)]

/-! ### Words numbered as spec/opcode_table.json numbers them -/

/-- The three bytes, first byte first, of an instruction whose bits are `w`. A row of 8 bits is its first byte; a
16-bit row of the table is in its "extended (0xCB00 | second byte)" space and has the FIRST byte, 0xCB, in bits 15..8
(30_encoding.md R112); any other word has its bytes in rising order from bit 0. Bits from `nbits` up are 0 (log 8). -/
def tableWordBytes (nbits w : Nat) : Byte × Byte × Byte :=
  let v := w % 2 ^ nbits
  if nbits = 16 ∧ v / 256 = 0xCB then (0xCB#8, BitVec.ofNat 8 v, 0#8)
  else (BitVec.ofNat 8 v, BitVec.ofNat 8 (v / 256), BitVec.ofNat 8 (v / 65536))

/-- The instruction the decoder reads from a table word; every word is one, so it is never `none`. -/
def decodeTableWord (nbits w : Nat) : Option Instr :=
  let (b0, b1, b2) := tableWordBytes nbits w
  some (decodeBytes b0 b1 b2)

end Sys2Proof
end

