-- ==== Sys2Proof/Machine/System.lean ====
section
/-! DEFINITION. The meanings of the system instructions (46_system.md R320-R327). -/

namespace Sys2Proof.Machine

/-- `NOP` (R320). -/
def execNop (s : State) : Out := .next s

/-- `HALT` (R321). -/
def execHalt (s : State) : Out := .next { s with halted := true }

/-- `STOP` (R322): the second byte is ignored; the machine then has no further step. -/
def execStop (_d8 : Byte) (s : State) : Out := .next { s with stopped := true }

/-- `DI` (R323): at once, and it cancels an `EI` whose delay still runs. -/
def execDi (s : State) : Out := .next { s with ime := false, imeDelay := 0 }

/-- `EI` (R324): only starts the delay, and only if it does not run already. -/
def execEi (s : State) : Out := .next { s with imeDelay := if s.imeDelay = 0 then 2 else s.imeDelay }

/-- The undefined opcodes (R326): raise `UnknownOpcode` with the byte and its address; PC has not been advanced, it is
that address. -/
def execIllegal (hole : Hole) (s : State) : Out :=
  .next (raiseFatal (.unknownOpcode hole.opcode s.regs.pc) s)

/-- The prefix byte 0xCB as a row of the table (R325): "read the second byte and decode it in the extended space"; it
does what the extended instruction of `op2` does. The decoder gives that instruction itself (log 9); no instruction
outside the extended space comes out of `decodeExtended`, so the last arm is never reached. -/
def execPrefixCb (op2 : Byte) (s : State) : Out :=
  match decodeExtended op2 with
  | .rlcR r => execRlcR r s
  | .rrcR r => execRrcR r s
  | .rlR r => execRlR r s
  | .rrR r => execRrR r s
  | .slaR r => execSlaR r s
  | .sraR r => execSraR r s
  | .swapR r => execSwapR r s
  | .srlR r => execSrlR r s
  | .rlcMemHl => execRlcMemHl s
  | .rrcMemHl => execRrcMemHl s
  | .rlMemHl => execRlMemHl s
  | .rrMemHl => execRrMemHl s
  | .slaMemHl => execSlaMemHl s
  | .sraMemHl => execSraMemHl s
  | .swapMemHl => execSwapMemHl s
  | .srlMemHl => execSrlMemHl s
  | .bitR b r => execBitR b r s
  | .bitMemHl b => execBitMemHl b s
  | .resR b r => execResR b r s
  | .resMemHl b => execResMemHl b s
  | .setR b r => execSetR b r s
  | .setMemHl b => execSetMemHl b s
  | _ => .next s

end Sys2Proof.Machine
end

