-- ==== Sys2Proof/Machine/Dispatch.lean ====
section
/-! DEFINITION. What each instruction does: one arm per constructor, each one call of that instruction's meaning. -/

namespace Sys2Proof.Machine

def exec (i : Instr) (s : State) : Host.Outcome State Fault Refusal :=
  match i with
  | .nop => Sys2Proof.Machine.execNop s
  | .ldRrD16 rr d16 => Sys2Proof.Machine.execLdRrD16 rr d16 s
  | .ldMemBcA => Sys2Proof.Machine.execLdMemBcA s
  | .ldMemDeA => Sys2Proof.Machine.execLdMemDeA s
  | .ldMemHliA => Sys2Proof.Machine.execLdMemHliA s
  | .ldMemHldA => Sys2Proof.Machine.execLdMemHldA s
  | .incRr rr => Sys2Proof.Machine.execIncRr rr s
  | .incR r => Sys2Proof.Machine.execIncR r s
  | .incMemHl => Sys2Proof.Machine.execIncMemHl s
  | .decR r => Sys2Proof.Machine.execDecR r s
  | .decMemHl => Sys2Proof.Machine.execDecMemHl s
  | .ldRD8 r d8 => Sys2Proof.Machine.execLdRD8 r d8 s
  | .ldMemHlD8 d8 => Sys2Proof.Machine.execLdMemHlD8 d8 s
  | .rlca => Sys2Proof.Machine.execRlca s
  | .rrca => Sys2Proof.Machine.execRrca s
  | .rla => Sys2Proof.Machine.execRla s
  | .rra => Sys2Proof.Machine.execRra s
  | .daa => Sys2Proof.Machine.execDaa s
  | .cpl => Sys2Proof.Machine.execCpl s
  | .scf => Sys2Proof.Machine.execScf s
  | .ccf => Sys2Proof.Machine.execCcf s
  | .ldMemA16Sp a16 => Sys2Proof.Machine.execLdMemA16Sp a16 s
  | .addHlRr rr => Sys2Proof.Machine.execAddHlRr rr s
  | .ldAMemBc => Sys2Proof.Machine.execLdAMemBc s
  | .ldAMemDe => Sys2Proof.Machine.execLdAMemDe s
  | .ldAMemHli => Sys2Proof.Machine.execLdAMemHli s
  | .ldAMemHld => Sys2Proof.Machine.execLdAMemHld s
  | .decRr rr => Sys2Proof.Machine.execDecRr rr s
  | .stop d8 => Sys2Proof.Machine.execStop d8 s
  | .jrE8 e8 => Sys2Proof.Machine.execJrE8 e8 s
  | .jrCcE8 cc e8 => Sys2Proof.Machine.execJrCcE8 cc e8 s
  | .ldRR rd rs => Sys2Proof.Machine.execLdRR rd rs s
  | .ldRMemHl r => Sys2Proof.Machine.execLdRMemHl r s
  | .ldMemHlR r => Sys2Proof.Machine.execLdMemHlR r s
  | .halt => Sys2Proof.Machine.execHalt s
  | .addAR r => Sys2Proof.Machine.execAddAR r s
  | .addAMemHl => Sys2Proof.Machine.execAddAMemHl s
  | .adcAR r => Sys2Proof.Machine.execAdcAR r s
  | .adcAMemHl => Sys2Proof.Machine.execAdcAMemHl s
  | .subAR r => Sys2Proof.Machine.execSubAR r s
  | .subAMemHl => Sys2Proof.Machine.execSubAMemHl s
  | .sbcAR r => Sys2Proof.Machine.execSbcAR r s
  | .sbcAMemHl => Sys2Proof.Machine.execSbcAMemHl s
  | .andAR r => Sys2Proof.Machine.execAndAR r s
  | .andAMemHl => Sys2Proof.Machine.execAndAMemHl s
  | .xorAR r => Sys2Proof.Machine.execXorAR r s
  | .xorAMemHl => Sys2Proof.Machine.execXorAMemHl s
  | .orAR r => Sys2Proof.Machine.execOrAR r s
  | .orAMemHl => Sys2Proof.Machine.execOrAMemHl s
  | .cpAR r => Sys2Proof.Machine.execCpAR r s
  | .cpAMemHl => Sys2Proof.Machine.execCpAMemHl s
  | .addAD8 d8 => Sys2Proof.Machine.execAddAD8 d8 s
  | .adcAD8 d8 => Sys2Proof.Machine.execAdcAD8 d8 s
  | .subAD8 d8 => Sys2Proof.Machine.execSubAD8 d8 s
  | .sbcAD8 d8 => Sys2Proof.Machine.execSbcAD8 d8 s
  | .andAD8 d8 => Sys2Proof.Machine.execAndAD8 d8 s
  | .xorAD8 d8 => Sys2Proof.Machine.execXorAD8 d8 s
  | .orAD8 d8 => Sys2Proof.Machine.execOrAD8 d8 s
  | .cpAD8 d8 => Sys2Proof.Machine.execCpAD8 d8 s
  | .retCc cc => Sys2Proof.Machine.execRetCc cc s
  | .popRr rr => Sys2Proof.Machine.execPopRr rr s
  | .popAf => Sys2Proof.Machine.execPopAf s
  | .jpCcA16 cc a16 => Sys2Proof.Machine.execJpCcA16 cc a16 s
  | .jpA16 a16 => Sys2Proof.Machine.execJpA16 a16 s
  | .callCcA16 cc a16 => Sys2Proof.Machine.execCallCcA16 cc a16 s
  | .pushRr rr => Sys2Proof.Machine.execPushRr rr s
  | .rst t => Sys2Proof.Machine.execRst t s
  | .ret => Sys2Proof.Machine.execRet s
  | .reti => Sys2Proof.Machine.execReti s
  | .prefixCb op2 => Sys2Proof.Machine.execPrefixCb op2 s
  | .callA16 a16 => Sys2Proof.Machine.execCallA16 a16 s
  | .ldhMemA8A a8 => Sys2Proof.Machine.execLdhMemA8A a8 s
  | .ldhAMemA8 a8 => Sys2Proof.Machine.execLdhAMemA8 a8 s
  | .ldMemCA => Sys2Proof.Machine.execLdMemCA s
  | .ldAMemC => Sys2Proof.Machine.execLdAMemC s
  | .addSpE8 e8 => Sys2Proof.Machine.execAddSpE8 e8 s
  | .ldHlSpE8 e8 => Sys2Proof.Machine.execLdHlSpE8 e8 s
  | .jpHl => Sys2Proof.Machine.execJpHl s
  | .ldSpHl => Sys2Proof.Machine.execLdSpHl s
  | .ldMemA16A a16 => Sys2Proof.Machine.execLdMemA16A a16 s
  | .ldAMemA16 a16 => Sys2Proof.Machine.execLdAMemA16 a16 s
  | .di => Sys2Proof.Machine.execDi s
  | .ei => Sys2Proof.Machine.execEi s
  | .illegal hole => Sys2Proof.Machine.execIllegal hole s
  | .rlcR r => Sys2Proof.Machine.execRlcR r s
  | .rlcMemHl => Sys2Proof.Machine.execRlcMemHl s
  | .rrcR r => Sys2Proof.Machine.execRrcR r s
  | .rrcMemHl => Sys2Proof.Machine.execRrcMemHl s
  | .rlR r => Sys2Proof.Machine.execRlR r s
  | .rlMemHl => Sys2Proof.Machine.execRlMemHl s
  | .rrR r => Sys2Proof.Machine.execRrR r s
  | .rrMemHl => Sys2Proof.Machine.execRrMemHl s
  | .slaR r => Sys2Proof.Machine.execSlaR r s
  | .slaMemHl => Sys2Proof.Machine.execSlaMemHl s
  | .sraR r => Sys2Proof.Machine.execSraR r s
  | .sraMemHl => Sys2Proof.Machine.execSraMemHl s
  | .swapR r => Sys2Proof.Machine.execSwapR r s
  | .swapMemHl => Sys2Proof.Machine.execSwapMemHl s
  | .srlR r => Sys2Proof.Machine.execSrlR r s
  | .srlMemHl => Sys2Proof.Machine.execSrlMemHl s
  | .bitR b r => Sys2Proof.Machine.execBitR b r s
  | .bitMemHl b => Sys2Proof.Machine.execBitMemHl b s
  | .resR b r => Sys2Proof.Machine.execResR b r s
  | .resMemHl b => Sys2Proof.Machine.execResMemHl b s
  | .setR b r => Sys2Proof.Machine.execSetR b r s
  | .setMemHl b => Sys2Proof.Machine.execSetMemHl b s

end Sys2Proof.Machine
end

