-- ==== Sys2Proof/Machine/Ppu.lean ====
section
/-! DEFINITION. The PPU (61_ppu.md): tile and sprite decode, rendering of a line, the mode machine, interrupt
generation and frame delivery. -/

namespace Sys2Proof.Machine

/-! ### Tiles (61_ppu.md R417, R418) -/

/-- A VRAM or OAM byte by bus address, as the PPU sees it (61_ppu.md R400). -/
def videoByte (a : Nat) (s : State) : Byte := s.mem.read a

/-- `TilePixel(rowaddr, x)`: high plane bit 7-x, low plane bit 7-x; 0 to 3 (R418). -/
def tilePixel (rowAddr x : Nat) (s : State) : Nat :=
  2 * ((videoByte (rowAddr + 1) s).getLsbD (7 - x)).toNat + ((videoByte rowAddr s).getLsbD (7 - x)).toNat

/-- `shade(P, i) = (P >> (2 * i)) & 3` (R408). -/
def shade (p : Byte) (i : Nat) : Shade := p.extractLsb' (2 * i) 2

/-- The tile data address of a background map entry: unsigned from 0x8000 when LCDC bit 4 is 1, else signed from 0x9000
(R417). -/
def bgTileAddr (lcdc t : Byte) : Nat :=
  if lcdc.getLsbD 4 then 0x8000 + 16 * t.toNat
  else if t.toNat < 128 then 0x9000 + 16 * t.toNat
  else 0x9000 + 16 * t.toNat - 16 * 256

/-! ### Background (61_ppu.md R420) -/

/-- The background's pixel index at column `x` of line `ly`; 0 when the background is off (R420). -/
def bgIndex (ly x : Nat) (s : State) : Nat :=
  if s.ppu.lcdc.getLsbD 0 then
    let ty := (ly + s.ppu.scy.toNat) % 256
    let tx := (x + s.ppu.scx.toNat) % 256
    let base := if s.ppu.lcdc.getLsbD 3 then 0x9C00 else 0x9800
    let t := videoByte (base + 32 * (ty / 8) + tx / 8) s
    tilePixel (bgTileAddr s.ppu.lcdc t + 2 * (ty % 8)) (tx % 8) s
  else 0

/-- The background's shade at column `x`: 0 when the background is off, not `shade(BGP, 0)` (R420). -/
def bgShade (ly x : Nat) (s : State) : Shade :=
  if s.ppu.lcdc.getLsbD 0 then shade s.ppu.bgp (bgIndex ly x s) else 0#2

/-- The background's 160 shades of line `ly`. -/
def bgLine (ly : Nat) (s : State) : List Shade :=
  (List.range Config.screenWidth).map fun x => bgShade ly x s

/-! ### Sprites (61_ppu.md R419, R421, R422) -/

/-- An OAM entry (R419): Y, X, tile, attributes. -/
structure Sprite where
  index : Nat
  y : Nat
  x : Nat
  tile : Byte
  attr : Byte
deriving DecidableEq, Repr

/-- Entry `i`: `OAM[4i .. 4i+3]` (R419). -/
def spriteAt (i : Nat) (s : State) : Sprite :=
  { index := i
    y := (videoByte (0xFE00 + 4 * i) s).toNat
    x := (videoByte (0xFE00 + 4 * i + 1) s).toNat
    tile := videoByte (0xFE00 + 4 * i + 2) s
    attr := videoByte (0xFE00 + 4 * i + 3) s }

/-- The sprite height: 16 when LCDC bit 2 is 1, else 8 (R421). -/
def spriteHeight (s : State) : Nat := if s.ppu.lcdc.getLsbD 2 then 16 else 8

/-- `Y - 16 <= ly < Y - 16 + h` (R421). -/
def Sprite.covers (sp : Sprite) (ly h : Nat) : Bool := decide (sp.y ≤ ly + 16 ∧ ly + 16 < sp.y + h)

/-- "X descending, then i descending" (R421). -/
def Sprite.before (p q : Sprite) : Bool := decide (q.x < p.x ∨ (q.x = p.x ∧ q.index ≤ p.index))

/-- The sprites drawn on line `ly`, in drawing order: select by Y, sort, keep the first 10 (R421). -/
def spritesToDraw (ly : Nat) (s : State) : List Sprite :=
  let cand := ((List.range 40).map fun i => spriteAt i s).filter fun sp => sp.covers ly (spriteHeight s)
  (cand.insertionSort fun p q => p.before q = true).take 10

/-- The row address of a sprite's pixels on line `ly` (R422): Y flip, and the tile pair of a 16-line sprite. -/
def Sprite.rowAddr (sp : Sprite) (ly h : Nat) : Nat :=
  let row := ly + 16 - sp.y
  let row := if sp.attr.getLsbD 6 then h - 1 - row else row
  let t := if h = 16 then sp.tile &&& 0xFE#8 else sp.tile
  0x8000 + 16 * t.toNat + 2 * row

/-- One pixel of `DrawSprite` (R422): off-screen columns, index 0 and background priority leave the line as it is. -/
def drawSpritePixel (sp : Sprite) (ly : Nat) (s : State) (pix : List Shade) (px : Nat) : List Shade :=
  let sx := sp.x + px - 8
  let idx := tilePixel (sp.rowAddr ly (spriteHeight s)) (if sp.attr.getLsbD 5 then 7 - px else px) s
  if sp.x + px < 8 ∨ sx ≥ Config.screenWidth then pix
  else if idx = 0 then pix
  else if sp.attr.getLsbD 7 ∧ bgIndex ly sx s ≠ 0 then pix
  else pix.set sx (shade (if sp.attr.getLsbD 4 then s.ppu.obp1 else s.ppu.obp0) idx)

/-- `DrawSprite(i)` (R422). -/
def drawSprite (ly : Nat) (s : State) (pix : List Shade) (sp : Sprite) : List Shade :=
  (List.range 8).foldl (drawSpritePixel sp ly s) pix

/-- The 160 shades of line `ly` (R420-R422); sprites only if LCDC bit 1 is 1. -/
def linePixels (ly : Nat) (s : State) : List Shade :=
  if s.ppu.lcdc.getLsbD 1 then (spritesToDraw ly s).foldl (drawSprite ly s) (bgLine ly s) else bgLine ly s

/-- `RenderLine(ly)`: `work[ly] <- pix` (R422). The machine renders only lines 0 to 143; a row that does not exist is
not written (log 15). -/
def renderLine (s : State) : State :=
  { s with ppu := { s.ppu with work := s.ppu.work.set s.ppu.ly.toNat (linePixels s.ppu.ly.toNat s) } }

/-! ### The mode machine (61_ppu.md R410-R416) -/

/-- The length of a mode in cycles (R410, R411). -/
def modeLength : PpuMode → Nat
  | .oamScan => 80
  | .pixelTransfer => 172
  | .hblank => 204
  | .vblank => 456

/-- Set the mode. -/
def State.setMode (m : PpuMode) (s : State) : State := { s with ppu := { s.ppu with mode := m } }

/-- Request lcd-stat (bit 1) if STAT bit `bit` enables it (R414). -/
def requestStat (bit : Nat) (s : State) : State := if s.ppu.statEn.getLsbD bit then s.request 1 else s

/-- `SetLY(v)`: and the LYC compare (R413, R415). -/
def setLy (v : Byte) (s : State) : State :=
  let s := { s with ppu := { s.ppu with ly := v } }
  if v = s.ppu.lyc then requestStat 6 s else s

/-- `DeliverFrame()`: append a copy of `work` (R416). -/
def deliverFrame (s : State) : State :=
  { s with ppu := { s.ppu with frames := s.ppu.frames ++ [s.ppu.work] } }

/-- T1, OamScan to PixelTransfer (R413). -/
def endOamScan (s : State) : State := s.setMode .pixelTransfer

/-- T2, PixelTransfer to HBlank: the line is rendered (R413). -/
def endPixelTransfer (s : State) : State := requestStat 3 ((renderLine s).setMode .hblank)

/-- T3, the end of HBlank (R413, 90_conflicts.md C1): after line 143 VBlank, the frame and its interrupts. -/
def endHblank (s : State) : State :=
  if s.ppu.ly = 143#8 then requestStat 4 ((deliverFrame ((setLy 144#8 s).setMode .vblank)).request 0)
  else requestStat 5 ((setLy (s.ppu.ly + 1#8) s).setMode .oamScan)

/-- T4, the end of a VBlank line (R413). -/
def endVblankLine (s : State) : State :=
  if s.ppu.ly = 153#8 then requestStat 5 ((setLy 0#8 s).setMode .oamScan)
  else setLy (s.ppu.ly + 1#8) s

/-- The transition out of the current mode (R412). -/
def endMode (s : State) : State :=
  match s.ppu.mode with
  | .oamScan => endOamScan s
  | .pixelTransfer => endPixelTransfer s
  | .hblank => endHblank s
  | .vblank => endVblankLine s

/-- The loop of `PpuStep` (R412): while a threshold is reached, take the cycles of the mode off and make the
transition. `fuel` bounds the loop (log 13). -/
def ppuLoop : Nat → State → State
  | 0, s => s
  | fuel + 1, s =>
    if modeLength s.ppu.mode ≤ s.ppu.modeCycles then
      ppuLoop fuel
        (endMode { s with ppu := { s.ppu with modeCycles := s.ppu.modeCycles - modeLength s.ppu.mode } })
    else s

/-- Enough fuel: every turn of the loop takes at least 80 cycles off. -/
def ppuFuel (s : State) : Nat := s.ppu.modeCycles / 80 + 1

/-- `PpuStep(c)` (R412). -/
def ppuStep (c : Nat) (s : State) : State :=
  let s := { s with ppu := { s.ppu with modeCycles := s.ppu.modeCycles + c } }
  ppuLoop (ppuFuel s) s

end Sys2Proof.Machine
end

