-- ==== Sys2Proof/Machine/Timing.lean ====
section
/-! DEFINITION. What an InstructionTable entry holds beside its operation: the length in bytes (30_encoding.md R113) and
the cycle cost (70_reset_and_hazards.md R471, R472; the `cycles` column of opcode_table.json). -/

namespace Sys2Proof.Machine

/-- The bytes PC is advanced by before the operation (10_state.md R26). The eleven undefined opcodes "have no
mnemonic, length or cost" (46_system.md R326): 0. -/
def size : Instr → Nat
  | .nop => 1
  | .ldRrD16 _ _ => 3
  | .ldMemBcA => 1
  | .ldMemDeA => 1
  | .ldMemHliA => 1
  | .ldMemHldA => 1
  | .incRr _ => 1
  | .incR _ => 1
  | .incMemHl => 1
  | .decR _ => 1
  | .decMemHl => 1
  | .ldRD8 _ _ => 2
  | .ldMemHlD8 _ => 2
  | .rlca => 1
  | .rrca => 1
  | .rla => 1
  | .rra => 1
  | .daa => 1
  | .cpl => 1
  | .scf => 1
  | .ccf => 1
  | .ldMemA16Sp _ => 3
  | .addHlRr _ => 1
  | .ldAMemBc => 1
  | .ldAMemDe => 1
  | .ldAMemHli => 1
  | .ldAMemHld => 1
  | .decRr _ => 1
  | .stop _ => 2
  | .jrE8 _ => 2
  | .jrCcE8 _ _ => 2
  | .ldRR _ _ => 1
  | .ldRMemHl _ => 1
  | .ldMemHlR _ => 1
  | .halt => 1
  | .addAR _ => 1
  | .addAMemHl => 1
  | .adcAR _ => 1
  | .adcAMemHl => 1
  | .subAR _ => 1
  | .subAMemHl => 1
  | .sbcAR _ => 1
  | .sbcAMemHl => 1
  | .andAR _ => 1
  | .andAMemHl => 1
  | .xorAR _ => 1
  | .xorAMemHl => 1
  | .orAR _ => 1
  | .orAMemHl => 1
  | .cpAR _ => 1
  | .cpAMemHl => 1
  | .addAD8 _ => 2
  | .adcAD8 _ => 2
  | .subAD8 _ => 2
  | .sbcAD8 _ => 2
  | .andAD8 _ => 2
  | .xorAD8 _ => 2
  | .orAD8 _ => 2
  | .cpAD8 _ => 2
  | .retCc _ => 1
  | .popRr _ => 1
  | .popAf => 1
  | .jpCcA16 _ _ => 3
  | .jpA16 _ => 3
  | .callCcA16 _ _ => 3
  | .pushRr _ => 1
  | .rst _ => 1
  | .ret => 1
  | .reti => 1
  | .prefixCb _ => 2
  | .callA16 _ => 3
  | .ldhMemA8A _ => 2
  | .ldhAMemA8 _ => 2
  | .ldMemCA => 1
  | .ldAMemC => 1
  | .addSpE8 _ => 2
  | .ldHlSpE8 _ => 2
  | .jpHl => 1
  | .ldSpHl => 1
  | .ldMemA16A _ => 3
  | .ldAMemA16 _ => 3
  | .di => 1
  | .ei => 1
  | .illegal _ => 0
  | .rlcR _ => 2
  | .rlcMemHl => 2
  | .rrcR _ => 2
  | .rrcMemHl => 2
  | .rlR _ => 2
  | .rlMemHl => 2
  | .rrR _ => 2
  | .rrMemHl => 2
  | .slaR _ => 2
  | .slaMemHl => 2
  | .sraR _ => 2
  | .sraMemHl => 2
  | .swapR _ => 2
  | .swapMemHl => 2
  | .srlR _ => 2
  | .srlMemHl => 2
  | .bitR _ _ => 2
  | .bitMemHl _ => 2
  | .resR _ _ => 2
  | .resMemHl _ => 2
  | .setR _ _ => 2
  | .setMemHl _ => 2

/-- The cost of an extended instruction: register operand 8, `(HL)` operand 16, but `BIT b,(HL)` 12
(44_rotate_shift_bit.md R250). -/
def extendedCycles (op2 : Byte) : Nat :=
  if fieldZ op2 ≠ 6 then 8 else if fieldX op2 = 1 then 12 else 16

/-- The cost the step adds: the taken or the not-taken cost of a conditional transfer, by the flags at its start
(70_reset_and_hazards.md R471, R472). -/
def cycles (i : Instr) (s : State) : Nat :=
  match i with
  | .nop => 4
  | .ldRrD16 _ _ => 12
  | .ldMemBcA => 8
  | .ldMemDeA => 8
  | .ldMemHliA => 8
  | .ldMemHldA => 8
  | .incRr _ => 8
  | .incR _ => 4
  | .incMemHl => 12
  | .decR _ => 4
  | .decMemHl => 12
  | .ldRD8 _ _ => 8
  | .ldMemHlD8 _ => 12
  | .rlca => 4
  | .rrca => 4
  | .rla => 4
  | .rra => 4
  | .daa => 4
  | .cpl => 4
  | .scf => 4
  | .ccf => 4
  | .ldMemA16Sp _ => 20
  | .addHlRr _ => 8
  | .ldAMemBc => 8
  | .ldAMemDe => 8
  | .ldAMemHli => 8
  | .ldAMemHld => 8
  | .decRr _ => 8
  | .stop _ => 4
  | .jrE8 _ => 12
  | .jrCcE8 cc _ => if s.cond cc then 12 else 8
  | .ldRR _ _ => 4
  | .ldRMemHl _ => 8
  | .ldMemHlR _ => 8
  | .halt => 4
  | .addAR _ => 4
  | .addAMemHl => 8
  | .adcAR _ => 4
  | .adcAMemHl => 8
  | .subAR _ => 4
  | .subAMemHl => 8
  | .sbcAR _ => 4
  | .sbcAMemHl => 8
  | .andAR _ => 4
  | .andAMemHl => 8
  | .xorAR _ => 4
  | .xorAMemHl => 8
  | .orAR _ => 4
  | .orAMemHl => 8
  | .cpAR _ => 4
  | .cpAMemHl => 8
  | .addAD8 _ => 8
  | .adcAD8 _ => 8
  | .subAD8 _ => 8
  | .sbcAD8 _ => 8
  | .andAD8 _ => 8
  | .xorAD8 _ => 8
  | .orAD8 _ => 8
  | .cpAD8 _ => 8
  | .retCc cc => if s.cond cc then 20 else 8
  | .popRr _ => 12
  | .popAf => 12
  | .jpCcA16 cc _ => if s.cond cc then 16 else 12
  | .jpA16 _ => 16
  | .callCcA16 cc _ => if s.cond cc then 24 else 12
  | .pushRr _ => 16
  | .rst _ => 16
  | .ret => 16
  | .reti => 16
  | .prefixCb op2 => extendedCycles op2
  | .callA16 _ => 24
  | .ldhMemA8A _ => 12
  | .ldhAMemA8 _ => 12
  | .ldMemCA => 8
  | .ldAMemC => 8
  | .addSpE8 _ => 16
  | .ldHlSpE8 _ => 12
  | .jpHl => 4
  | .ldSpHl => 8
  | .ldMemA16A _ => 16
  | .ldAMemA16 _ => 16
  | .di => 4
  | .ei => 4
  | .illegal _ => 0
  | .rlcR _ => 8
  | .rlcMemHl => 16
  | .rrcR _ => 8
  | .rrcMemHl => 16
  | .rlR _ => 8
  | .rlMemHl => 16
  | .rrR _ => 8
  | .rrMemHl => 16
  | .slaR _ => 8
  | .slaMemHl => 16
  | .sraR _ => 8
  | .sraMemHl => 16
  | .swapR _ => 8
  | .swapMemHl => 16
  | .srlR _ => 8
  | .srlMemHl => 16
  | .bitR _ _ => 8
  | .bitMemHl _ => 12
  | .resR _ _ => 8
  | .resMemHl _ => 16
  | .setR _ _ => 8
  | .setMemHl _ => 16

end Sys2Proof.Machine
end

