-- ==== Sys2Proof/Machine/Cycle.lean ====
section
/-! DEFINITION. The instruction cycle and the system step: fetch, advance, `CpuStep` (30_encoding.md R120) and
`SystemStep` (70_reset_and_hazards.md R466), and how a program's bytes come to be in the machine. -/

namespace Sys2Proof.Machine

/-! ### Fetch and advance -/

/-- The instruction at PC: the opcode and the two bytes after it, read through the bus (R120 step 5). Reads have no
side effect (20_memory.md R71), so reading a byte the instruction does not have changes nothing (log 12). -/
def fetch (s : State) : Instr :=
  decodeBytes (busRead s.regs.pc s) (busRead (s.regs.pc + 1#16) s) (busRead (s.regs.pc + 2#16) s)

/-- `pc <- (a + length) mod 2^16` before the operation (R120 step 6); an undefined opcode faults before any advance
(46_system.md R326). -/
def advance (i : Instr) (s : State) : State :=
  if size i = 0 then s else s.setPc (s.regs.pc + BitVec.ofNat 16 (size i))

/-! ### One step -/

/-- The end of a step that costs `c`: `tick_ime`, then `PpuStep(c)`, then `total_cycles` (R120 step 8, R466). -/
def retire (c : Nat) (s : State) : State :=
  let s := ppuStep c (tickIme s)
  { s with totalCycles := s.totalCycles + c }

/-- Fetch, advance and run one instruction; `c0` is what a dispatch has already cost. A step in which a fatal condition
was raised ends there: no cost, no tick, no PPU (R466, 60_exceptions.md R341). -/
def runInstr (c0 : Nat) (s : State) : Out :=
  let i := fetch s
  let s' := advance i s
  match exec i s' with
  | .next t => .next (if t.fault.isSome then t else retire (c0 + cycles i s') t)
  | .fault r => .fault r
  | .refused r => .refused r

/-- Leave the halted state (60_exceptions.md R359). -/
def wake (s : State) : State := { s with halted := false }

/-- The cost of an idle step of a halted CPU (70_reset_and_hazards.md R471). -/
def idleCycles : Nat := 4

/-- Dispatch, if IME is set and an interrupt is pending, and run the next instruction in the same step (R120 steps 4 to
9, 60_exceptions.md R353, R355). -/
def dispatchAndRun (s : State) : Out :=
  match s.interruptToTake with
  | some n => runInstr dispatchCycles (takeInterrupt n s)
  | none => runInstr 0 s

/-- A step of a machine that has one: `NotReady` with no cartridge image (60_exceptions.md R342, log 3), an idle step
while halted with nothing pending, else dispatch, fetch and execute (R120 steps 2 to 9). -/
def runningStep (s : State) : Out :=
  if s.cartLoaded = false then .next (raiseFatal .notReady s)
  else if s.halted = true ∧ s.pending = 0#8 then .next (retire idleCycles s)
  else dispatchAndRun (wake s)

/-- `SystemStep` (R466): after a fatal condition and after `STOP` there is no step (R120 step 1). -/
def systemStep (s : State) : Out :=
  match s.fault with
  | some c => .fault (.fatal c)
  | none => if s.stopped = true then .fault .stopped else runningStep s

/-! ### Loading -/

/-- The reset state of a machine launched with a cartridge image and a boot image (70_reset_and_hazards.md R460, R465):
the reachable offsets of CART and the 256 bytes of BOOT_IMAGE, absent bytes reading 0x00 (20_memory.md R63). -/
def launch (cart boot : List Byte) : State :=
  { State.reset with mem := Memory.ofBytes 0 (cart.take 0x8000), boot := Memory.ofBytes 0 (boot.take 0x100) }

/-- Put a byte where a fetch from address `a` reads it: BOOT_IMAGE under the overlay, CART, a RAM cell, IF or IE. An
unmapped address and a PPU register hold no program byte; they are left as they are (log 16). -/
def placeByte (a : Word) (v : Byte) (s : State) : State :=
  match region s.bootOverlay a with
  | .bootImage => { s with boot := s.boot.write a.toNat v }
  | .rom => s.writeCell a.toNat v
  | .vram => s.writeCell a.toNat v
  | .eram => s.writeCell a.toNat v
  | .wram => s.writeCell a.toNat v
  | .echo => s.writeCell (echoKey a) v
  | .oam => s.writeCell a.toNat v
  | .hram => s.writeCell a.toNat v
  | .ifReg => { s with ifReg := v }
  | .ieReg => { s with ieReg := v }
  | .ppu => s
  | .unmapped => s

/-- Place the three bytes of a table word at PC (log 2). -/
def placeWord (nbits w : Nat) (s : State) : State :=
  let (b0, b1, b2) := tableWordBytes nbits w
  let s' := placeByte (s.regs.pc + 2#16) b2 (placeByte (s.regs.pc + 1#16) b1 s)
  placeByte s.regs.pc b0 s'

end Sys2Proof.Machine
end

