-- ==== Sys2Proof/Machine/Step.lean ====
section
/-! DEFINITION. The step of the machine and the placing of an instruction where it fetches the next one. -/

namespace Sys2Proof.Machine

/-- One step: `SystemStep` (70_reset_and_hazards.md R466). -/
def step (s : State) : Host.Outcome State Fault Refusal := systemStep s

/-- `s` with the instruction whose bits are `w` stored at PC, where the next step fetches (log 2). -/
def State.withFetchWord (s : State) (nbits w : Nat) : State := placeWord nbits w s

end Sys2Proof.Machine
end

