-- ==== Sys2Proof/Safety.lean ====
section
/-! DEFINITION. The terms the statements use: results worked out on integers, what an instruction may write, what a
store may touch, the invariant of the machine and its schedule. None of it is used by the machine itself. -/

namespace Sys2Proof.Machine

/-! ### States that have a step -/

/-- There is a step: no fatal condition, not stopped, a cartridge image is present (30_encoding.md R120 step 1). -/
def Ready (s : State) : Prop := s.fault = none ∧ s.stopped = false ∧ s.cartLoaded = true

/-- The step fetches an instruction: the CPU is not halted, or wakes (60_exceptions.md R359). -/
def Awake (s : State) : Prop := s.halted = true → s.pending ≠ 0#8

/-- The bytes at PC, where the next instruction is fetched. -/
def bytesAtPc (s : State) : List Byte :=
  [busRead s.regs.pc s, busRead (s.regs.pc + 1#16) s, busRead (s.regs.pc + 2#16) s]

/-! ### Results, on integers -/

/-- F from its four flags: bit 7 Z, bit 6 N, bit 5 H, bit 4 C, bits 3:0 zero (10_state.md R22). -/
def flagsByte (z n h c : Bool) : Byte :=
  BitVec.ofNat 8 (128 * z.toNat + 64 * n.toNat + 32 * h.toNat + 16 * c.toNat)

/-- `s` with F = `f` and nothing else changed. -/
def withF (f : Byte) (s : State) : State := { s with regs := { s.regs with f := f } }

/-- `s` with A = `a`, F = `f` and nothing else changed. -/
def withAF (a f : Byte) (s : State) : State := { s with regs := { s.regs with a := a, f := f } }

/-- `A <- add8(A, x, cin)` (42_alu8.md R181). -/
def afterAdd (x : Byte) (cin : Bool) (s : State) : State :=
  let a := s.regs.a.toNat
  let sum := a + x.toNat + cin.toNat
  withAF (BitVec.ofNat 8 sum)
    (flagsByte (sum % 256 = 0) false (a % 16 + x.toNat % 16 + cin.toNat > 15) (sum > 255)) s

/-- F of `sub8(A, x, cin)` (42_alu8.md R182). -/
def flagsOfSub (x : Byte) (cin : Bool) (s : State) : Byte :=
  let a : Int := s.regs.a.toNat
  let d : Int := a - x.toNat - cin.toNat
  flagsByte (d % 256 = 0) true (a % 16 - (x.toNat : Int) % 16 - cin.toNat < 0) (d < 0)

/-- `A <- sub8(A, x, cin)` (42_alu8.md R182). -/
def afterSub (x : Byte) (cin : Bool) (s : State) : State :=
  withAF (BitVec.ofInt 8 ((s.regs.a.toNat : Int) - x.toNat - cin.toNat)) (flagsOfSub x cin s) s

/-- `CP`: the flags of `sub8(A, x, 0)`, A unchanged (42_alu8.md R205). -/
def afterCompare (x : Byte) (s : State) : State := withF (flagsOfSub x false s) s

/-- A logic result `r` in A, H as given, N = C = 0 (42_alu8.md R183). -/
def afterLogic (r : Byte) (h : Bool) (s : State) : State := withAF r (flagsByte (r = 0#8) false h false) s

/-- F after `INC` of a byte `v` (42_alu8.md R208). -/
def flagsOfInc (v : Byte) (s : State) : Byte :=
  flagsByte ((v.toNat + 1) % 256 = 0) false (v.toNat % 16 = 15) (s.regs.f.getLsbD 4)

/-- F after `DEC` of a byte `v` (42_alu8.md R210). -/
def flagsOfDec (v : Byte) (s : State) : Byte :=
  flagsByte (v.toNat = 1) true (v.toNat % 16 = 0) (s.regs.f.getLsbD 4)

/-- `DAA` (42_alu8.md R212). -/
def afterDaa (s : State) : State :=
  let a := s.regs.a.toNat
  let n := s.regs.f.getLsbD 6
  let h := s.regs.f.getLsbD 5
  let c := s.regs.f.getLsbD 4
  let c' := if n then c else c || decide (a > 0x99)
  let low := if n then h else h || decide (a % 16 > 9)
  let adjust := (if c' then 0x60 else 0) + (if low then 0x06 else 0)
  let r := if n then (a + 512 - adjust) % 256 else (a + adjust) % 256
  withAF (BitVec.ofNat 8 r) (flagsByte (r = 0) n false c') s

/-- The packed BCD byte of a number below 100. -/
def bcd (k : Nat) : Byte := BitVec.ofNat 8 (16 * (k / 10) + k % 10)

/-- F after `ADD HL,x` (43_alu16.md R232). -/
def flagsOfAddHl (x : Word) (s : State) : Byte :=
  flagsByte (s.regs.f.getLsbD 7) false (s.hl.toNat % 4096 + x.toNat % 4096 > 4095) (s.hl.toNat + x.toNat > 65535)

/-- SP plus the signed byte `e`, mod 2^16 (43_alu16.md R231). -/
def spPlus (e : Byte) (s : State) : Word := BitVec.ofInt 16 ((s.regs.sp.toNat : Int) + e.toInt)

/-- F of `addsp(e8)` (43_alu16.md R231). -/
def flagsOfAddSp (e : Byte) (s : State) : Byte :=
  flagsByte false false (s.regs.sp.toNat % 16 + e.toNat % 16 > 15) (s.regs.sp.toNat % 256 + e.toNat > 255)

/-- Result and new Carry of the eight rotates and shifts, in words of 44_rotate_shift_bit.md R255. -/
def rotated (op : RotOp) (v : Byte) (c : Bool) : Byte × Bool :=
  match op with
  | .rlc => (v.rotateLeft 1, v.getLsbD 7)
  | .rrc => (v.rotateRight 1, v.getLsbD 0)
  | .rl => (BitVec.ofNat 8 (2 * v.toNat + c.toNat), v.getLsbD 7)
  | .rr => (BitVec.ofNat 8 (v.toNat / 2 + 128 * c.toNat), v.getLsbD 0)
  | .sla => (BitVec.ofNat 8 (2 * v.toNat), v.getLsbD 7)
  | .sra => (v.sshiftRight 1, v.getLsbD 0)
  | .swap => (v.rotateLeft 4, false)
  | .srl => (BitVec.ofNat 8 (v.toNat / 2), v.getLsbD 0)

/-- F after an extended rotate or shift (44_rotate_shift_bit.md R255). -/
def flagsOfRotate (op : RotOp) (v : Byte) (s : State) : Byte :=
  let o := rotated op v (s.regs.f.getLsbD 4)
  flagsByte (o.1 = 0#8) false false o.2

/-- An accumulator rotate forces Z = 0 (44_rotate_shift_bit.md R251-R254). -/
def afterRotateA (op : RotOp) (s : State) : State :=
  let o := rotated op s.regs.a (s.regs.f.getLsbD 4)
  withAF o.1 (flagsByte false false false o.2) s

/-- An extended rotate or shift of a register. -/
def afterRotateReg (op : RotOp) (r : Reg8) (s : State) : State :=
  withF (flagsOfRotate op (s.reg r) s) (s.setReg r (rotated op (s.reg r) (s.regs.f.getLsbD 4)).1)

/-- An extended rotate or shift of the byte at HL: read once, write once (44_rotate_shift_bit.md R250). -/
def afterRotateMem (op : RotOp) (s : State) : State :=
  let v := busRead s.hl s
  withF (flagsOfRotate op v s) (busWrite s.hl (rotated op v (s.regs.f.getLsbD 4)).1 s)

/-- F after `BIT b` of a byte `v` (44_rotate_shift_bit.md R272). -/
def flagsOfBit (b : BitVec 3) (v : Byte) (s : State) : Byte :=
  flagsByte (!v.getLsbD b.toNat) false true (s.regs.f.getLsbD 4)

/-- `v` with bit `b` set or clear. -/
def withBit (b : BitVec 3) (on : Bool) (v : Byte) : Byte :=
  BitVec.ofFnLE fun j : Fin 8 => if j.val = b.toNat then on else v.getLsbD j.val

/-- A condition, on the F byte (30_encoding.md R106, 45_control.md R290 c). -/
def holds (cc : Cond) (f : Byte) : Bool :=
  match cc with
  | .nz => !f.getLsbD 7
  | .z => f.getLsbD 7
  | .nc => !f.getLsbD 4
  | .c => f.getLsbD 4

/-- `pc <- v`: the overlay latch falls when PC becomes 0x0100 (10_state.md R25, R32). -/
def jumpedTo (v : Word) (s : State) : State :=
  { s with regs := { s.regs with pc := v }, bootOverlay := if v = 0x0100#16 then false else s.bootOverlay }

/-- `push16(v)`: the high byte below SP, then the low byte below it, SP lowered by 2 (41_load16_stack.md R168). -/
def pushed (v : Word) (s : State) : State :=
  let sp := s.regs.sp
  let s1 := busWrite (sp - 1#16) (v.extractLsb' 8 8) s
  let s2 := busWrite (sp - 2#16) (v.extractLsb' 0 8) s1
  { s2 with regs := { s2.regs with sp := sp - 2#16 } }

/-- The word `pop16()` reads: low byte at SP, high byte at SP + 1 (41_load16_stack.md R168). -/
def popped (s : State) : Word := busRead (s.regs.sp + 1#16) s ++ busRead s.regs.sp s

/-- `s` with SP raised by 2. -/
def spUp2 (s : State) : State := { s with regs := { s.regs with sp := s.regs.sp + 2#16 } }

/-! ### Storage and what a store touches -/

/-- Plain storage: VRAM, ERAM, WRAM and its echo, OAM, HRAM (20_memory.md R61 rows 3 to 7 and 10). -/
def isStorage (a : Word) : Bool :=
  decide ((0x8000 ≤ a.toNat ∧ a.toNat < 0xFEA0) ∨ (0xFF80 ≤ a.toNat ∧ a.toNat < 0xFFFF))

/-- The cell an address names: an echo address names the work RAM cell 0x2000 below (20_memory.md R68). -/
def cellOf (a : Word) : Nat :=
  if 0xE000 ≤ a.toNat ∧ a.toNat < 0xFE00 then a.toNat - 0x2000 else a.toNat

/-- The addresses whose byte a store to `a` may change: the aliases of `a`; OAM for a store to DMA (61_ppu.md R407);
STAT, whose coincidence bit is live, for a store to LYC (61_ppu.md R403, R415). -/
def touches (a b : Word) : Bool :=
  cellOf a == cellOf b
    || (a == 0xFF46#16 && decide (0xFE00 ≤ b.toNat ∧ b.toNat < 0xFEA0))
    || (a == 0xFF45#16 && b == 0xFF41#16)

/-- The addresses an instruction stores a byte to, in state `s`, in order. -/
def stores (i : Instr) (s : State) : List Word :=
  match i with
  | .nop => []
  | .ldRrD16 _ _ => []
  | .ldMemBcA => [s.bc]
  | .ldMemDeA => [s.de]
  | .ldMemHliA | .ldMemHldA => [s.hl]
  | .incRr _ | .incR _ | .decR _ | .ldRD8 _ _ | .decRr _ | .addHlRr _ => []
  | .incMemHl | .decMemHl | .ldMemHlD8 _ | .ldMemHlR _ => [s.hl]
  | .rlca | .rrca | .rla | .rra | .daa | .cpl | .scf | .ccf => []
  | .ldMemA16Sp a16 => [a16, a16 + 1#16]
  | .ldAMemBc | .ldAMemDe | .ldAMemHli | .ldAMemHld | .ldRR _ _ | .ldRMemHl _ => []
  | .stop _ | .jrE8 _ | .jrCcE8 _ _ | .halt => []
  | .addAR _ | .addAMemHl | .addAD8 _ | .adcAR _ | .adcAMemHl | .adcAD8 _ => []
  | .subAR _ | .subAMemHl | .subAD8 _ | .sbcAR _ | .sbcAMemHl | .sbcAD8 _ => []
  | .andAR _ | .andAMemHl | .andAD8 _ | .xorAR _ | .xorAMemHl | .xorAD8 _ => []
  | .orAR _ | .orAMemHl | .orAD8 _ | .cpAR _ | .cpAMemHl | .cpAD8 _ => []
  | .retCc _ | .popRr _ | .popAf | .jpCcA16 _ _ | .jpA16 _ | .ret | .reti | .jpHl => []
  | .callCcA16 cc _ => if holds cc s.regs.f then [s.regs.sp - 1#16, s.regs.sp - 2#16] else []
  | .pushRr _ | .rst _ | .callA16 _ => [s.regs.sp - 1#16, s.regs.sp - 2#16]
  | .prefixCb op2 => if fieldZ op2 = 6 ∧ fieldX op2 ≠ 1 then [s.hl] else []
  | .ldhMemA8A a8 => [0xFF#8 ++ a8]
  | .ldMemCA => [0xFF#8 ++ s.regs.c]
  | .ldhAMemA8 _ | .ldAMemC | .addSpE8 _ | .ldHlSpE8 _ | .ldSpHl | .ldAMemA16 _ => []
  | .ldMemA16A a16 => [a16]
  | .di | .ei | .illegal _ => []
  | .rlcR _ | .rrcR _ | .rlR _ | .rrR _ | .slaR _ | .sraR _ | .swapR _ | .srlR _ => []
  | .rlcMemHl | .rrcMemHl | .rlMemHl | .rrMemHl | .slaMemHl | .sraMemHl | .swapMemHl | .srlMemHl => [s.hl]
  | .bitR _ _ | .bitMemHl _ | .resR _ _ | .setR _ _ => []
  | .resMemHl _ | .setMemHl _ => [s.hl]

/-! ### Which places of the CPU an instruction may write -/

/-- A place of the CPU outside memory. -/
inductive Place where
  | reg (r : Reg8) | sp | pc | overlay | flagZ | flagN | flagH | flagC | ime | imeDelay | halted | stopped | fault
deriving DecidableEq, Repr

/-- The place holds the same in both states. -/
def Place.same (p : Place) (s t : State) : Prop :=
  match p with
  | .reg r => t.reg r = s.reg r
  | .sp => t.regs.sp = s.regs.sp
  | .pc => t.regs.pc = s.regs.pc
  | .overlay => t.bootOverlay = s.bootOverlay
  | .flagZ => t.regs.f.getLsbD 7 = s.regs.f.getLsbD 7
  | .flagN => t.regs.f.getLsbD 6 = s.regs.f.getLsbD 6
  | .flagH => t.regs.f.getLsbD 5 = s.regs.f.getLsbD 5
  | .flagC => t.regs.f.getLsbD 4 = s.regs.f.getLsbD 4
  | .ime => t.ime = s.ime
  | .imeDelay => t.imeDelay = s.imeDelay
  | .halted => t.halted = s.halted
  | .stopped => t.stopped = s.stopped
  | .fault => t.fault = s.fault

/-- The places of a pair. -/
def pairPlaces : Pair → List Place
  | .bc => [.reg .b, .reg .c]
  | .de => [.reg .d, .reg .e]
  | .hl => [.reg .h, .reg .l]
  | .sp => [.sp]

/-- The places of a stack pair. -/
def stackPairPlaces : StackPair → List Place
  | .bc => [.reg .b, .reg .c]
  | .de => [.reg .d, .reg .e]
  | .hl => [.reg .h, .reg .l]
  | .af => [.reg .a, .flagZ, .flagN, .flagH, .flagC]

/-- All four flags. -/
def allFlags : List Place := [.flagZ, .flagN, .flagH, .flagC]

/-- What a transfer writes: PC and, with it, the overlay latch (10_state.md R25). -/
def pcPlaces : List Place := [.pc, .overlay]

/-- The places an instruction may write: the flag summary of 42_alu8.md R216 and the access summary of 10_state.md
R41. -/
def written : Instr → List Place
  | .nop => []
  | .ldRrD16 rr _ => pairPlaces rr
  | .incRr rr => pairPlaces rr
  | .decRr rr => pairPlaces rr
  | .ldMemBcA | .ldMemDeA | .ldMemHlD8 _ | .ldMemHlR _ | .ldMemA16Sp _ => []
  | .ldhMemA8A _ | .ldMemCA | .ldMemA16A _ | .resMemHl _ | .setMemHl _ => []
  | .ldMemHliA | .ldMemHldA => [.reg .h, .reg .l]
  | .incR r | .decR r => [.reg r, .flagZ, .flagN, .flagH]
  | .incMemHl | .decMemHl => [.flagZ, .flagN, .flagH]
  | .ldRD8 r _ | .ldRR r _ | .ldRMemHl r | .resR _ r | .setR _ r => [.reg r]
  | .rlca | .rrca | .rla | .rra => .reg .a :: allFlags
  | .daa => [.reg .a, .flagZ, .flagH, .flagC]
  | .cpl => [.reg .a, .flagN, .flagH]
  | .scf | .ccf => [.flagN, .flagH, .flagC]
  | .addHlRr _ => [.reg .h, .reg .l, .flagN, .flagH, .flagC]
  | .ldAMemBc | .ldAMemDe | .ldhAMemA8 _ | .ldAMemC | .ldAMemA16 _ => [.reg .a]
  | .ldAMemHli | .ldAMemHld => [.reg .a, .reg .h, .reg .l]
  | .stop _ => [.stopped]
  | .halt => [.halted]
  | .addAR _ | .addAMemHl | .addAD8 _ | .adcAR _ | .adcAMemHl | .adcAD8 _ => .reg .a :: allFlags
  | .subAR _ | .subAMemHl | .subAD8 _ | .sbcAR _ | .sbcAMemHl | .sbcAD8 _ => .reg .a :: allFlags
  | .andAR _ | .andAMemHl | .andAD8 _ | .xorAR _ | .xorAMemHl | .xorAD8 _ => .reg .a :: allFlags
  | .orAR _ | .orAMemHl | .orAD8 _ => .reg .a :: allFlags
  | .cpAR _ | .cpAMemHl | .cpAD8 _ => allFlags
  | .jrE8 _ | .jrCcE8 _ _ | .jpCcA16 _ _ | .jpA16 _ | .jpHl => pcPlaces
  | .retCc _ | .ret | .callCcA16 _ _ | .callA16 _ | .rst _ => .sp :: pcPlaces
  | .reti => .sp :: .ime :: .imeDelay :: pcPlaces
  | .popRr rr => .sp :: stackPairPlaces rr
  | .popAf => .sp :: .reg .a :: allFlags
  | .pushRr _ => [.sp]
  | .prefixCb op2 =>
    match fieldX op2, Reg8.ofCode (fieldZ op2) with
    | 0, some r => .reg r :: allFlags
    | 0, none => allFlags
    | 1, _ => [.flagZ, .flagN, .flagH]
    | _, some r => [.reg r]
    | _, none => []
  | .addSpE8 _ => .sp :: allFlags
  | .ldHlSpE8 _ => .reg .h :: .reg .l :: allFlags
  | .ldSpHl => [.sp]
  | .di => [.ime, .imeDelay]
  | .ei => [.imeDelay]
  | .illegal _ => [.fault]
  | .rlcR r | .rrcR r | .rlR r | .rrR r | .slaR r | .sraR r | .swapR r | .srlR r => .reg r :: allFlags
  | .rlcMemHl | .rrcMemHl | .rlMemHl | .rrMemHl | .slaMemHl | .sraMemHl | .swapMemHl | .srlMemHl => allFlags
  | .bitR _ _ | .bitMemHl _ => [.flagZ, .flagN, .flagH]

/-- What no instruction changes itself, whatever it stores: the launch parameters, the cycle total, LY and the PPU's
mode, mode counter and frames (61_ppu.md R405, R412, R416; 10_state.md R38, R39). -/
def SameDevices (s t : State) : Prop :=
  t.boot = s.boot ∧ t.cartLoaded = s.cartLoaded ∧ t.totalCycles = s.totalCycles ∧ t.ppu.ly = s.ppu.ly
    ∧ t.ppu.mode = s.ppu.mode ∧ t.ppu.modeCycles = s.ppu.modeCycles ∧ t.ppu.work = s.ppu.work
    ∧ t.ppu.frames = s.ppu.frames ∧ ∀ k, k < 0x8000 → t.mem.read k = s.mem.read k

/-! ### Pixels, through bus reads -/

/-- A byte of VRAM or OAM at bus address `n`. -/
def byteAt (n : Int) (s : State) : Byte := busRead (BitVec.ofInt 16 n) s

/-- The background's pixel index at (`x`, `ly`) (61_ppu.md R417, R418, R420). -/
def bgIndexAt (ly x : Nat) (s : State) : Nat :=
  let ty := (ly + s.ppu.scy.toNat) % 256
  let tx := (x + s.ppu.scx.toNat) % 256
  let base := if s.ppu.lcdc.getLsbD 3 then 0x9C00 else 0x9800
  let t := byteAt (base + 32 * (ty / 8) + tx / 8) s
  let tileAddr : Int := if s.ppu.lcdc.getLsbD 4 then 0x8000 + 16 * (t.toNat : Int) else 0x9000 + 16 * t.toInt
  let row := tileAddr + 2 * (ty % 8 : Nat)
  if s.ppu.lcdc.getLsbD 0 then
    2 * ((byteAt (row + 1) s).getLsbD (7 - tx % 8)).toNat + ((byteAt row s).getLsbD (7 - tx % 8)).toNat
  else 0

/-- `shade(P, i) = (P >> (2 * i)) & 3` (61_ppu.md R408). -/
def shadeOf (p : Byte) (i : Nat) : Shade := BitVec.ofNat 2 (p.toNat / 4 ^ i)

/-- The index of the sprite pixel in column `px` (0 to 7) on line `ly` (61_ppu.md R418, R422). -/
def spriteIndexAt (sp : Sprite) (ly px : Nat) (s : State) : Nat :=
  let h := if s.ppu.lcdc.getLsbD 2 then 16 else 8
  let row := ly + 16 - sp.y
  let row := if sp.attr.getLsbD 6 then h - 1 - row else row
  let tile := if h = 16 then sp.tile.toNat / 2 * 2 else sp.tile.toNat
  let addr := 0x8000 + 16 * tile + 2 * row
  let col := if sp.attr.getLsbD 5 then 7 - px else px
  2 * ((byteAt (addr + 1 : Nat) s).getLsbD (7 - col)).toNat + ((byteAt addr s).getLsbD (7 - col)).toNat

/-- What drawing sprite `sp` leaves at column `x` of a line that showed `old` there (61_ppu.md R422). -/
def spritePixel (sp : Sprite) (ly x : Nat) (s : State) (old : Shade) : Shade :=
  let px := x + 8 - sp.x
  let idx := spriteIndexAt sp ly px s
  if sp.x ≤ x + 8 ∧ x + 8 < sp.x + 8 ∧ idx ≠ 0 ∧ ¬ (sp.attr.getLsbD 7 = true ∧ bgIndexAt ly x s ≠ 0) then
    shadeOf (if sp.attr.getLsbD 4 then s.ppu.obp1 else s.ppu.obp0) idx
  else old

/-- Each of the 32 by 32 entries of the background map in use names tile `t` (61_ppu.md R420). -/
def MapIsAll (t : Byte) (s : State) : Prop :=
  ∀ k : Nat, k < 0x400 → byteAt ((if s.ppu.lcdc.getLsbD 3 then 0x9C00 else 0x9800) + (k : Int)) s = t

/-- The sixteen bytes of background tile `t` are 0x00 (61_ppu.md R417). -/
def TileIsZero (t : Byte) (s : State) : Prop :=
  ∀ j : Nat, j < 16 →
    byteAt ((if s.ppu.lcdc.getLsbD 4 then 0x8000 + 16 * (t.toNat : Int) else 0x9000 + 16 * t.toInt) + (j : Int)) s
      = 0x00#8

/-- "X descending, then i descending" (61_ppu.md R421). -/
def drawnBefore (p q : Sprite) : Prop := q.x < p.x ∨ (q.x = p.x ∧ q.index < p.index)

/-! ### The invariant -/

/-- The keys cells may have: CART, VRAM, ERAM, WRAM, OAM, HRAM. -/
def isCellKey (k : Nat) : Prop := k < 0xE000 ∨ (0xFE00 ≤ k ∧ k < 0xFEA0) ∨ (0xFF80 ≤ k ∧ k < 0xFFFF)

/-- "144 rows ... of 160 shades" (61_ppu.md R423). -/
def isFrame (f : Frame) : Prop := f.length = 144 ∧ ∀ row ∈ f, row.length = 160

/-- The invariant of the machine. -/
structure Inv (s : State) : Prop where
  /-- The cells are in canonical form. -/
  memWf : s.mem.wf
  bootWf : s.boot.wf
  /-- Only backed addresses have cells (20_memory.md R61). -/
  memKeys : ∀ c ∈ s.mem, isCellKey c.1
  bootKeys : ∀ c ∈ s.boot, c.1 < 0x100
  /-- "all other bits of F are always zero" (10_state.md R22). -/
  flagsLow : s.regs.f &&& 0x0F#8 = 0#8
  /-- `STAT_EN` is bits 6:3 (61_ppu.md R403). -/
  statLow : s.ppu.statEn &&& 0x87#8 = 0#8
  /-- "a counter with values 0, 1, 2" (10_state.md R29). -/
  delay : s.imeDelay ≤ 2
  /-- LY is "0–153" (61_ppu.md R405). -/
  line : s.ppu.ly.toNat ≤ 153
  /-- "144 to 153 are the VBlank lines" (61_ppu.md R405). -/
  vblankLines : s.ppu.mode = .vblank ↔ 144 ≤ s.ppu.ly.toNat
  /-- "Between steps `mode_cycles` is below the current mode's length" (61_ppu.md R412). -/
  modeTime : s.ppu.modeCycles < modeLength s.ppu.mode
  workShape : isFrame s.ppu.work
  framesShape : ∀ f ∈ s.ppu.frames, isFrame f
  /-- While the overlay is on, PC is not 0x0100 (10_state.md R32). -/
  latch : s.bootOverlay = true → s.regs.pc ≠ 0x0100#16

/-! ### The schedule of the PPU -/

/-- How far into its line a mode begins: 80 + 172 + 204 (61_ppu.md R411). -/
def modeStart : PpuMode → Nat
  | .oamScan => 0
  | .pixelTransfer => 80
  | .hblank => 252
  | .vblank => 0

/-- How far into the frame the PPU is, in cycles. -/
def framePos (p : Ppu) : Nat := 456 * p.ly.toNat + modeStart p.mode + p.modeCycles

/-- "the PPU never drifts against the cycle total" (61_ppu.md R412), and frames are delivered "first at `t` = 65,664
after reset, then every 70,224 cycles" (61_ppu.md R416): 65,664 + 4,560 = 70,224. -/
def OnSchedule (s : State) : Prop :=
  s.totalCycles % 70224 = framePos s.ppu ∧ s.ppu.frames.length = (s.totalCycles + 4560) / 70224

end Sys2Proof.Machine
end

