-- ==== Sys2Proof/Certificates/Slice0/Obligations.lean ====
section
/-! DEFINITION. The statements for the provers, from the numbered rules of spec/. -/

open Sys2Proof Sys2Proof.Machine

/-- O1. Decoding an encoded instruction gives it back, with every operand (30_encoding.md R100-R117,
opcode_table.json). -/
def Obligations.DecodeOfEncode : Prop :=
  ∀ (i : Instr) (rest : List Byte), i.wf = true → decode (encode i ++ rest) = .ok (i, rest)

/-- O2. Every decoded instruction is well-formed and its bytes are the ones read (30_encoding.md R100-R117,
opcode_table.json). -/
def Obligations.EncodeOfDecode : Prop :=
  ∀ (bytes : List Byte) (i : Instr) (rest : List Byte),
    decode bytes = .ok (i, rest) → i.wf = true ∧ encode i ++ rest = bytes

/-- O3. The first byte alone fixes the length, and decoding fails only on too few bytes (30_encoding.md R113). -/
def Obligations.DecodingIsTotal : Prop :=
  ∀ (b0 : Byte) (rest : List Byte),
    bytesAfter b0 =
      (if b0.toNat ∈ [0x06, 0x0E, 0x16, 0x1E, 0x26, 0x2E, 0x36, 0x3E, 0x10, 0x18, 0x20, 0x28, 0x30, 0x38, 0xC6, 0xCE,
          0xD6, 0xDE, 0xE6, 0xEE, 0xF6, 0xFE, 0xE0, 0xF0, 0xE8, 0xF8, 0xCB] then 1
       else if b0.toNat ∈ [0x01, 0x11, 0x21, 0x31, 0x08, 0xC2, 0xCA, 0xD2, 0xDA, 0xC3, 0xC4, 0xCC, 0xD4, 0xDC, 0xCD,
          0xEA, 0xFA] then 2
       else 0) ∧
    (bytesAfter b0 ≤ rest.length → ∃ i, decode (b0 :: rest) = .ok (i, rest.drop (bytesAfter b0))) ∧
    (rest.length < bytesAfter b0 → decode (b0 :: rest) = .error (.truncated b0))

/-- O4. Exactly eleven first bytes decode to an undefined opcode (30_encoding.md R116, 46_system.md R326). -/
def Obligations.UndefinedOpcodesAreEleven : Prop :=
  ∀ b0 b1 b2 : Byte,
    ((∃ hole, decodeBytes b0 b1 b2 = .illegal hole) ↔
      b0.toNat ∈ [0xD3, 0xDB, 0xDD, 0xE3, 0xE4, 0xEB, 0xEC, 0xED, 0xF4, 0xFC, 0xFD]) ∧
    ∀ hole, decodeBytes b0 b1 b2 = .illegal hole → hole.opcode = b0

/-- O5. The length an instruction advances PC by is the number of its bytes (30_encoding.md R113, 10_state.md R26). -/
def Obligations.SizeIsEncodedLength : Prop :=
  ∀ i : Instr, i.wf = true → (∀ hole, i ≠ .illegal hole) →
    size i = (encode i).length ∧ ∃ b0 tail, encode i = b0 :: tail ∧ tail.length = bytesAfter b0

/-- O6. Words written out from the encodings decode to the instructions they stand for (30_encoding.md R114, R115,
40_load8.md, 45_control.md). -/
def Obligations.DecodedWords : Prop :=
  decode [0x41#8] = .ok (.ldRR .b .c, []) ∧
  decode [0x21#8, 0x00#8, 0x98#8] = .ok (.ldRrD16 .hl 0x9800#16, []) ∧
  decode [0x80#8] = .ok (.addAR .b, []) ∧
  decode [0xD6#8, 0x0F#8] = .ok (.subAD8 0x0F#8, []) ∧
  decode [0x19#8] = .ok (.addHlRr .de, []) ∧
  decode [0xCB#8, 0x7F#8] = .ok (.bitR 7#3 .a, []) ∧
  decode [0xCB#8, 0x36#8] = .ok (.swapMemHl, []) ∧
  decode [0x20#8, 0xFE#8] = .ok (.jrCcE8 .nz 0xFE#8, []) ∧
  decode [0xCD#8, 0x00#8, 0x02#8] = .ok (.callA16 0x0200#16, []) ∧
  decode [0xEF#8] = .ok (.rst 5#3, []) ∧
  decode [0xF1#8] = .ok (.popAf, []) ∧
  decode [0x76#8] = .ok (.halt, []) ∧
  decode [0x10#8, 0x00#8] = .ok (.stop 0x00#8, []) ∧
  decode [0xDD#8] = .ok (.illegal .xDD, [])

/-- O7. Reset puts every piece of state at the value the spec gives (10_state.md R40, 61_ppu.md R403). The values are
the spec's choice (R40, D4, D22; log 20). -/
def Obligations.ResetState : Prop :=
  State.reset.regs = { a := 0, f := 0, b := 0, c := 0, d := 0, e := 0, h := 0, l := 0, sp := 0, pc := 0 } ∧
  State.reset.ime = false ∧ State.reset.imeDelay = 0 ∧ State.reset.halted = false ∧ State.reset.stopped = false ∧
  State.reset.bootOverlay = true ∧ State.reset.fault = none ∧ State.reset.ifReg = 0 ∧ State.reset.ieReg = 0 ∧
  (∀ r : PpuReg, r ≠ .stat → State.reset.ppu.readReg r = 0) ∧ State.reset.ppu.statEn = 0 ∧
  busRead 0xFF41#16 State.reset = 0x06#8 ∧ State.reset.ppu.mode = .oamScan ∧ State.reset.ppu.modeCycles = 0 ∧
  State.reset.ppu.work = List.replicate 144 (List.replicate 160 0#2) ∧ State.reset.ppu.frames = [] ∧
  (∀ a : Word, isStorage a = true → busRead a State.reset = 0x00#8) ∧ State.reset.totalCycles = 0

/-- O8. The invariant holds and the PPU is on schedule after reset (10_state.md R40, 61_ppu.md R412). -/
def Obligations.ResetInv : Prop :=
  Inv State.reset ∧ OnSchedule State.reset

/-- O9. Every step keeps the invariant (10_state.md R22, R29, R32, R36, 20_memory.md R61, 61_ppu.md R403, R405, R412,
R423). -/
def Obligations.StepKeepsInv : Prop :=
  ∀ s t : State, Inv s → step s = .next t → Inv t

/-- O10. The PPU never drifts against the cycle total (61_ppu.md R411, R412, R416, 70_reset_and_hazards.md R466). -/
def Obligations.StepKeepsSchedule : Prop :=
  ∀ s t : State, Inv s → OnSchedule s → step s = .next t → OnSchedule t

/-- O11. No step changes the images, and the boot overlay never comes back (10_state.md R32, R35, R39, 20_memory.md
R62, R64). -/
def Obligations.StepKeepsLaunchParameters : Prop :=
  ∀ s t : State, step s = .next t →
    t.boot = s.boot ∧ t.cartLoaded = s.cartLoaded ∧ (∀ k, k < 0x8000 → t.mem.read k = s.mem.read k) ∧
    (t.bootOverlay = true → s.bootOverlay = true)

/-- O12. When a step answers a next state, and what it answers otherwise (60_exceptions.md R345, 46_system.md R322,
30_encoding.md R120). -/
def Obligations.StepOutcome : Prop :=
  ∀ s : State,
    (s.fault = none → s.stopped = false → ∃ t, step s = .next t) ∧
    (∀ c, s.fault = some c → step s = .fault (.fatal c)) ∧
    (s.fault = none → s.stopped = true → step s = .fault .stopped)

/-- O13. A step runs the instruction decoded at PC (30_encoding.md R120, 70_reset_and_hazards.md R466, 10_state.md
R26). -/
def Obligations.StepRunsDecodedInstruction : Prop :=
  ∀ (s : State) (i : Instr) (rest : List Byte), Ready s → Awake s → s.interruptToTake = none →
    decode (bytesAtPc s) = .ok (i, rest) →
    ∃ t, exec i (advance i (wake s)) = .next t ∧
      step s = .next (if t.fault.isSome then t
        else { ppuStep (cycles i (advance i (wake s))) (tickIme t) with
                totalCycles := t.totalCycles + cycles i (advance i (wake s)) })

/-- O14. The advance moves PC by the length and touches nothing but PC and the latch (10_state.md R26, R27, R32,
46_system.md R326). -/
def Obligations.AdvanceMovesPastTheInstruction : Prop :=
  ∀ (i : Instr) (s : State),
    ((∀ hole, i ≠ .illegal hole) → advance i s = jumpedTo (s.regs.pc + BitVec.ofNat 16 (size i)) s ∧
      1 ≤ size i ∧ size i ≤ 3) ∧
    ∀ hole, advance (.illegal hole) s = s

/-- O15. A step with an interrupt to take dispatches it and runs the handler's first instruction (60_exceptions.md
R353, R355, 30_encoding.md R120, 70_reset_and_hazards.md R466). The 20 is INT_DISPATCH_CYCLES at its default, the
model's choice (log 14); a step that records a fatal condition ends there (log 4). -/
def Obligations.StepTakesInterruptThenRuns : Prop :=
  ∀ (s : State) (n : Nat) (i : Instr) (rest : List Byte), Ready s → Awake s → s.interruptToTake = some n →
    decode (bytesAtPc (takeInterrupt n (wake s))) = .ok (i, rest) →
    ∃ t, exec i (advance i (takeInterrupt n (wake s))) = .next t ∧
      step s = .next (if t.fault.isSome then t
        else { ppuStep (20 + cycles i (advance i (takeInterrupt n (wake s)))) (tickIme t) with
                totalCycles := t.totalCycles + (20 + cycles i (advance i (takeInterrupt n (wake s)))) })

/-- O16. An undefined opcode records UnknownOpcode and changes nothing else of the state at the fetch
(60_exceptions.md R341, R359, 30_encoding.md R120). That the record is a next state, and that halted is cleared, is
the model's reading (log 4). -/
def Obligations.UndefinedOpcodeStep : Prop :=
  ∀ s : State, Ready s → Awake s →
    let s' := match s.interruptToTake with
      | none => wake s
      | some n => takeInterrupt n (wake s)
    (busRead s'.regs.pc s').toNat ∈ [0xD3, 0xDB, 0xDD, 0xE3, 0xE4, 0xEB, 0xEC, 0xED, 0xF4, 0xFC, 0xFD] →
    step s = .next { s' with fault := some (.unknownOpcode (busRead s'.regs.pc s') s'.regs.pc) }

/-- O17. Without a cartridge image the first step raises NotReady and there is no further step (60_exceptions.md R342,
R345). The bit for an absent image is the model's (log 3), and so is the step that records the condition (log 4). -/
def Obligations.NotReadyStep : Prop :=
  ∀ s : State, s.fault = none → s.stopped = false → s.cartLoaded = false →
    step s = .next { s with fault := some .notReady } ∧
    step { s with fault := some .notReady } = .fault (.fatal .notReady)

/-- O18. A halted CPU idles for 4 cycles or wakes on a pending enabled request (60_exceptions.md R359,
70_reset_and_hazards.md R466, R471). -/
def Obligations.HaltedStep : Prop :=
  ∀ s : State, Ready s → s.halted = true →
    (s.pending = 0#8 →
      step s = .next { ppuStep 4 (tickIme s) with totalCycles := s.totalCycles + 4 } ∧
      (ppuStep 4 (tickIme s)).halted = true) ∧
    (s.pending ≠ 0#8 → step s = step { s with halted := false })

/-- O19. A completed step costs 4 to 44 cycles, a multiple of 4; a fatal one costs nothing (70_reset_and_hazards.md
R470, R471, 61_ppu.md R412, 60_exceptions.md R341). The bound 44 = 20 + 24 has INT_DISPATCH_CYCLES at its default, the
model's choice (log 14), and the sentence of R412 that gives it is marked derived. -/
def Obligations.StepCost : Prop :=
  ∀ s t : State, step s = .next t →
    (t.fault = none → ∃ c, 4 ≤ c ∧ c ≤ 44 ∧ c % 4 = 0 ∧ t.totalCycles = s.totalCycles + c) ∧
    (t.fault ≠ none → t.totalCycles = s.totalCycles ∧ framePos t.ppu = framePos s.ppu)

/-- O20. Only EI's delay and RETI set IME; only dispatch and DI clear it (10_state.md R28, 60_exceptions.md R354,
R356). -/
def Obligations.ImeChangesOnlyAsTheSpecSays : Prop :=
  ∀ s t : State, step s = .next t →
    (s.ime = false → t.ime = true → s.imeDelay = 1 ∨ fetch s = .reti) ∧
    (s.ime = true → t.ime = false → s.interruptToTake ≠ none ∨ fetch s = .di)

/-- O21. The cost and length of every instruction form (70_reset_and_hazards.md R471, R472). The table is the spec's
own (R471, D36; log 20), and a dispatch costs the default 20 (log 14). -/
def Obligations.CostAndLengthTable : Prop :=
  ∀ (r r' : Reg8) (rr : Pair) (q : StackPair) (d : Byte) (w : Word) (b : BitVec 3) (cc : Cond) (s : State),
    (∀ i ∈ [.nop, .incR r, .decR r, .rlca, .rrca, .rla, .rra, .daa, .cpl, .scf, .ccf, .ldRR r r', 
        .halt, .addAR r, .adcAR r, .subAR r, .sbcAR r, .andAR r, .xorAR r, .orAR r, .cpAR r, 
        .jpHl, .di, .ei],
      cycles i s = 4 ∧ size i = 1) ∧
    (∀ i ∈ [.stop d],
      cycles i s = 4 ∧ size i = 2) ∧
    (∀ i ∈ [.ldMemBcA, .ldMemDeA, .ldMemHliA, .ldMemHldA, .incRr rr, .addHlRr rr, .ldAMemBc, 
        .ldAMemDe, .ldAMemHli, .ldAMemHld, .decRr rr, .ldRMemHl r, .ldMemHlR r, .addAMemHl, 
        .adcAMemHl, .subAMemHl, .sbcAMemHl, .andAMemHl, .xorAMemHl, .orAMemHl, .cpAMemHl, 
        .ldMemCA, .ldAMemC, .ldSpHl],
      cycles i s = 8 ∧ size i = 1) ∧
    (∀ i ∈ [.ldRD8 r d, .addAD8 d, .adcAD8 d, .subAD8 d, .sbcAD8 d, .andAD8 d, .xorAD8 d, .orAD8 d, 
        .cpAD8 d, .rlcR r, .rrcR r, .rlR r, .rrR r, .slaR r, .sraR r, .swapR r, .srlR r, 
        .bitR b r, .resR b r, .setR b r],
      cycles i s = 8 ∧ size i = 2) ∧
    (∀ i ∈ [.incMemHl, .decMemHl, .popRr q, .popAf],
      cycles i s = 12 ∧ size i = 1) ∧
    (∀ i ∈ [.ldMemHlD8 d, .jrE8 d, .ldhMemA8A d, .ldhAMemA8 d, .ldHlSpE8 d, .bitMemHl b],
      cycles i s = 12 ∧ size i = 2) ∧
    (∀ i ∈ [.ldRrD16 rr w],
      cycles i s = 12 ∧ size i = 3) ∧
    (∀ i ∈ [.pushRr q, .rst b, .ret, .reti],
      cycles i s = 16 ∧ size i = 1) ∧
    (∀ i ∈ [.addSpE8 d, .rlcMemHl, .rrcMemHl, .rlMemHl, .rrMemHl, .slaMemHl, .sraMemHl, .swapMemHl, 
        .srlMemHl, .resMemHl b, .setMemHl b],
      cycles i s = 16 ∧ size i = 2) ∧
    (∀ i ∈ [.jpA16 w, .ldMemA16A w, .ldAMemA16 w],
      cycles i s = 16 ∧ size i = 3) ∧
    (∀ i ∈ [.ldMemA16Sp w],
      cycles i s = 20 ∧ size i = 3) ∧
    (∀ i ∈ [.callA16 w],
      cycles i s = 24 ∧ size i = 3) ∧
    (cycles (.jrCcE8 cc d) s = (if holds cc s.regs.f then 12 else 8) ∧ size (.jrCcE8 cc d) = 2) ∧
    (cycles (.jpCcA16 cc w) s = (if holds cc s.regs.f then 16 else 12) ∧ size (.jpCcA16 cc w) = 3) ∧
    (cycles (.callCcA16 cc w) s = (if holds cc s.regs.f then 24 else 12) ∧ size (.callCcA16 cc w) = 3) ∧
    (cycles (.retCc cc) s = (if holds cc s.regs.f then 20 else 8) ∧ size (.retCc cc) = 1) ∧
    idleCycles = 4 ∧ dispatchCycles = 20

/-- O22. The interrupt taken is the lowest-numbered enabled request, and only under IME (60_exceptions.md R351, R352,
R353). -/
def Obligations.InterruptPriority : Prop :=
  ∀ s : State,
    (∀ n, s.interruptToTake = some n ↔
      s.ime = true ∧ n < 5 ∧ s.ieReg.getLsbD n = true ∧ s.ifReg.getLsbD n = true ∧
        ∀ m, m < n → ¬ (s.ieReg.getLsbD m = true ∧ s.ifReg.getLsbD m = true)) ∧
    (s.pending ≠ 0#8 ↔ ∃ n, n < 5 ∧ s.ieReg.getLsbD n = true ∧ s.ifReg.getLsbD n = true)

/-- O23. Dispatch acknowledges the bit, clears IME, pushes PC and goes to the vector (60_exceptions.md R347, R354). -/
def Obligations.TakeInterrupt : Prop :=
  ∀ (n : Nat) (s : State), n < 5 →
    (let acknowledged : State :=
      { s with ifReg := s.ifReg &&& ~~~(1#8 <<< n), ime := false, imeDelay := 0 }
    let after := pushed s.regs.pc acknowledged
    takeInterrupt n s = { after with regs := { after.regs with pc := BitVec.ofNat 16 (0x40 + 8 * n) } }) ∧
    (s.mem.wf → isStorage (s.regs.sp - 1#16) = true → isStorage (s.regs.sp - 2#16) = true →
      (takeInterrupt n s).ifReg = s.ifReg &&& ~~~(1#8 <<< n) ∧ (takeInterrupt n s).ieReg = s.ieReg ∧
      (takeInterrupt n s).ppu = s.ppu ∧ popped (takeInterrupt n s) = s.regs.pc)

/-- O24. EI takes effect when the next instruction completes; DI and RETI act at once (60_exceptions.md R354, R356,
R357, 46_system.md R323, R324, 45_control.md R300). The mechanism is the spec's own decision (D17; log 20). -/
def Obligations.EiDelay : Prop :=
  ∀ s : State,
    exec .ei s = .next { s with imeDelay := if s.imeDelay = 0 then 2 else s.imeDelay } ∧
    tickIme s = (if s.imeDelay = 0 then s
      else { s with imeDelay := s.imeDelay - 1, ime := if s.imeDelay = 1 then true else s.ime }) ∧
    tickIme { s with imeDelay := 2 } = { s with imeDelay := 1 } ∧
    tickIme (tickIme { s with imeDelay := 2 }) = { s with imeDelay := 0, ime := true } ∧
    (∃ t, exec .di s = .next t ∧ t.ime = false ∧ t.imeDelay = 0 ∧ tickIme t = t) ∧
    (∃ t, exec .reti s = .next t ∧ t.ime = true ∧ t.imeDelay = 0 ∧ tickIme t = t) ∧
    ∀ n, n < 5 → (takeInterrupt n s).ime = false ∧ (takeInterrupt n s).imeDelay = 0

/-- O25. Advancing the PPU by a and then by b is advancing it by a + b (61_ppu.md R412). -/
def Obligations.PpuStepAdds : Prop :=
  ∀ (a b : Nat) (s : State), ppuStep b (ppuStep a s) = ppuStep (a + b) s

/-- O26. After PpuStep the mode counter is below the length of the mode (61_ppu.md R412, 10_state.md R36). -/
def Obligations.PpuStepSettles : Prop :=
  ∀ (c : Nat) (s : State), (ppuStep c s).ppu.modeCycles < modeLength (ppuStep c s).ppu.mode

/-- O27. The PPU writes nothing but IF, LY, mode, mode_cycles, work and frames (20_memory.md R83, R87, 61_ppu.md R400,
R414, R416). -/
def Obligations.PpuStepFrame : Prop :=
  ∀ (c : Nat) (s : State),
    let t := ppuStep c s
    t = { s with ifReg := t.ifReg,
                 ppu := { s.ppu with ly := t.ppu.ly, mode := t.ppu.mode, modeCycles := t.ppu.modeCycles,
                                     work := t.ppu.work, frames := t.ppu.frames } } ∧
    (∃ bits : Byte, bits &&& 0xFC#8 = 0#8 ∧ t.ifReg = s.ifReg ||| bits) ∧
    ∃ new, t.ppu.frames = s.ppu.frames ++ new

/-- O28. The four transitions of the mode machine and the interrupts they request (R413). -/
def Obligations.ModeTransitions : Prop :=
  ∀ s : State,
    let p := s.ppu
    let withStat (on : Bool) (f : Byte) : Byte := if on then f ||| 0x02#8 else f
    (p.mode = .oamScan → endMode s = { s with ppu := { p with mode := .pixelTransfer } }) ∧
    (p.mode = .pixelTransfer → endMode s =
      { s with ppu := { p with mode := .hblank, work := p.work.set p.ly.toNat (linePixels p.ly.toNat s) },
               ifReg := withStat (p.statEn.getLsbD 3) s.ifReg }) ∧
    (p.mode = .hblank → p.ly = 143#8 → endMode s =
      { s with ppu := { p with ly := 144#8, mode := .vblank, frames := p.frames ++ [p.work] },
               ifReg := withStat (p.statEn.getLsbD 4 || (p.statEn.getLsbD 6 && p.lyc == 144#8)) (s.ifReg ||| 0x01#8) }) ∧
    (p.mode = .hblank → p.ly ≠ 143#8 → endMode s =
      { s with ppu := { p with ly := p.ly + 1#8, mode := .oamScan },
               ifReg := withStat (p.statEn.getLsbD 5 || (p.statEn.getLsbD 6 && p.lyc == p.ly + 1#8)) s.ifReg }) ∧
    (p.mode = .vblank → p.ly = 153#8 → endMode s =
      { s with ppu := { p with ly := 0#8, mode := .oamScan },
               ifReg := withStat (p.statEn.getLsbD 5 || (p.statEn.getLsbD 6 && p.lyc == 0#8)) s.ifReg }) ∧
    (p.mode = .vblank → p.ly ≠ 153#8 → endMode s =
      { s with ppu := { p with ly := p.ly + 1#8 },
               ifReg := withStat (p.statEn.getLsbD 6 && p.lyc == p.ly + 1#8) s.ifReg })

/-- O29. The background pixels of a line, from the registers and VRAM (61_ppu.md R404, R408, R417, R418, R420). -/
def Obligations.BackgroundLine : Prop :=
  ∀ (s : State) (ly x : Nat), ly < 256 → x < 160 →
    bgIndex ly x s = bgIndexAt ly x s ∧
    (bgLine ly s).length = 160 ∧
    (bgLine ly s)[x]? =
      some (if s.ppu.lcdc.getLsbD 0 then shadeOf s.ppu.bgp (bgIndexAt ly x s) else 0#2)

/-- O30. The sprites drawn on a line: selected by Y, ordered by X then index descending, at most ten (61_ppu.md R419,
R421). The cap after sorting is the spec's decision (D29; log 20). -/
def Obligations.SpriteSelection : Prop :=
  ∀ (s : State) (ly : Nat),
    (∀ i : Nat, i < 40 → spriteAt i s =
      { index := i, y := (byteAt (0xFE00 + 4 * i) s).toNat, x := (byteAt (0xFE00 + 4 * i + 1) s).toNat,
        tile := byteAt (0xFE00 + 4 * i + 2) s, attr := byteAt (0xFE00 + 4 * i + 3) s }) ∧
    (∃ order : List Sprite,
      order.Perm (((List.range 40).map fun i => spriteAt i s).filter fun sp =>
        decide ((sp.y : Int) - 16 ≤ ly ∧ (ly : Int) < sp.y - 16 + (if s.ppu.lcdc.getLsbD 2 then 16 else 8))) ∧
      order.Pairwise drawnBefore ∧ spritesToDraw ly s = order.take 10) ∧
    linePixels ly s = (if s.ppu.lcdc.getLsbD 1 then (spritesToDraw ly s).foldl (drawSprite ly s) (bgLine ly s)
      else bgLine ly s)

/-- O31. What drawing one sprite leaves at each column of a line (61_ppu.md R418, R419, R422). -/
def Obligations.SpritePixels : Prop :=
  ∀ (s : State) (i ly x : Nat) (pix : List Shade),
    let sp := spriteAt i s
    i < 40 → ly < 144 → pix.length = 160 → x < 160 →
    sp.y ≤ ly + 16 → ly + 16 < sp.y + (if s.ppu.lcdc.getLsbD 2 then 16 else 8) →
    (drawSprite ly s pix sp)[x]? = (pix[x]?).map (spritePixel sp ly x s)

/-- O32. A line of an all-zero tile shows the palette's shade for index 0 everywhere (61_ppu.md R416, R417, R420,
95_test_vectors.md E6). -/
def Obligations.AllZeroTileLine : Prop :=
  ∀ (s : State) (ly : Nat) (t : Byte), ly < 144 →
    s.ppu.lcdc.getLsbD 0 = true → s.ppu.lcdc.getLsbD 1 = false →
    MapIsAll t s → TileIsZero t s →
    linePixels ly s = List.replicate 160 (BitVec.ofNat 2 s.ppu.bgp.toNat)

/-- O33. A store to DMA copies 160 bytes into OAM within the store (61_ppu.md R407). -/
def Obligations.OamCopy : Prop :=
  ∀ (v : Byte) (s : State), s.mem.wf →
    let before : State := { s with ppu := { s.ppu with dma := v } }
    let after := busWrite 0xFF46#16 v s
    (∀ i, i < 160 → busRead (BitVec.ofNat 16 (0xFE00 + i)) after = busRead (BitVec.ofNat 16 (v.toNat * 256 + i)) before) ∧
    busRead 0xFF46#16 after = v ∧
    after = { before with mem := after.mem } ∧
    ∀ b : Word, ¬ (0xFE00 ≤ b.toNat ∧ b.toNat < 0xFEA0) → busRead b after = busRead b before

/-- O34. What a load and a store of each memory-mapped register does (61_ppu.md R401-R409, 60_exceptions.md R348,
R349, R350). -/
def Obligations.RegisterInterface : Prop :=
  ∀ (v : Byte) (n : Nat) (s : State),
    busRead 0xFF0F#16 s = s.ifReg ∧ busWrite 0xFF0F#16 v s = { s with ifReg := v } ∧
    busRead 0xFFFF#16 s = s.ieReg ∧ busWrite 0xFFFF#16 v s = { s with ieReg := v } ∧
    s.request n = { s with ifReg := s.ifReg ||| (1#8 <<< n) } ∧
    busRead 0xFF40#16 s = s.ppu.lcdc ∧
    busRead 0xFF41#16 s = (s.ppu.statEn &&& 0x78#8) ||| (if s.ppu.ly = s.ppu.lyc then 0x04#8 else 0x00#8) |||
      (match s.ppu.mode with | .hblank => 0#8 | .vblank => 1#8 | .oamScan => 2#8 | .pixelTransfer => 3#8) ∧
    busRead 0xFF42#16 s = s.ppu.scy ∧ busRead 0xFF43#16 s = s.ppu.scx ∧ busRead 0xFF44#16 s = s.ppu.ly ∧
    busRead 0xFF45#16 s = s.ppu.lyc ∧ busRead 0xFF46#16 s = s.ppu.dma ∧ busRead 0xFF47#16 s = s.ppu.bgp ∧
    busRead 0xFF48#16 s = s.ppu.obp0 ∧ busRead 0xFF49#16 s = s.ppu.obp1 ∧ busRead 0xFF4A#16 s = s.ppu.wy ∧
    busRead 0xFF4B#16 s = s.ppu.wx ∧
    busWrite 0xFF40#16 v s = { s with ppu := { s.ppu with lcdc := v } } ∧
    busWrite 0xFF41#16 v s = { s with ppu := { s.ppu with statEn := v &&& 0x78#8 } } ∧
    busWrite 0xFF42#16 v s = { s with ppu := { s.ppu with scy := v } } ∧
    busWrite 0xFF43#16 v s = { s with ppu := { s.ppu with scx := v } } ∧
    busWrite 0xFF44#16 v s = s ∧
    busWrite 0xFF45#16 v s = { s with ppu := { s.ppu with lyc := v } } ∧
    busWrite 0xFF46#16 v s = oamCopy v { s with ppu := { s.ppu with dma := v } } ∧
    busWrite 0xFF47#16 v s = { s with ppu := { s.ppu with bgp := v } } ∧
    busWrite 0xFF48#16 v s = { s with ppu := { s.ppu with obp0 := v } } ∧
    busWrite 0xFF49#16 v s = { s with ppu := { s.ppu with obp1 := v } } ∧
    busWrite 0xFF4A#16 v s = { s with ppu := { s.ppu with wy := v } } ∧
    busWrite 0xFF4B#16 v s = { s with ppu := { s.ppu with wx := v } }

/-- O35. Plain storage returns the byte last stored, through either alias (20_memory.md R65, R66, R67, R68, R69). -/
def Obligations.StorageReadsBack : Prop :=
  ∀ (a b : Word) (v : Byte) (s : State),
    s.mem.wf → isStorage a = true → cellOf a = cellOf b → busRead b (busWrite a v s) = v

/-- O36. A store changes no byte it does not touch (20_memory.md R61, R71, R83, 61_ppu.md R401, R407, R415). -/
def Obligations.StoreFrame : Prop :=
  ∀ (a : Word) (v : Byte) (s : State),
    (∀ b : Word, touches a b = false → busRead b (busWrite a v s) = busRead b s) ∧
    (busWrite a v s).regs = s.regs ∧ (busWrite a v s).ime = s.ime ∧ (busWrite a v s).imeDelay = s.imeDelay ∧
    (busWrite a v s).halted = s.halted ∧ (busWrite a v s).stopped = s.stopped ∧
    (busWrite a v s).bootOverlay = s.bootOverlay ∧ (busWrite a v s).fault = s.fault ∧ SameDevices s (busWrite a v s)

/-- O37. Echo addresses and work RAM addresses name the same cells (R68). -/
def Obligations.EchoNamesWorkRam : Prop :=
  ∀ (a : Word) (v : Byte) (s : State), 0xE000 ≤ a.toNat → a.toNat ≤ 0xFDFF →
    busRead a s = busRead (a - 0x2000#16) s ∧ busWrite a v s = busWrite (a - 0x2000#16) v s ∧
    ∀ b : Word, 0xDE00 ≤ b.toNat → b.toNat ≤ 0xDFFF → busRead a (busWrite b v s) = busRead a s

/-- O38. ROM ignores stores; the boot overlay answers 0x0000-0x00FF while its latch is set (R62, R64). -/
def Obligations.RomAndBootOverlay : Prop :=
  ∀ (a : Word) (v : Byte) (s : State), a.toNat < 0x8000 →
    busWrite a v s = s ∧
    busRead a s = (if a.toNat < 0x100 ∧ s.bootOverlay = true then s.boot.read a.toNat else s.mem.read a.toNat)

/-- O39. Unmapped addresses read 0x00 and discard stores; so do offsets beyond the image (20_memory.md R63, R70,
60_exceptions.md R343). -/
def Obligations.UnmappedReadsZero : Prop :=
  ∀ (a : Word) (v : Byte) (s : State) (cart boot : List Byte),
    ((0xFEA0 ≤ a.toNat ∧ a.toNat ≤ 0xFEFF) ∨ (0xFF00 ≤ a.toNat ∧ a.toNat ≤ 0xFF0E) ∨
        (0xFF10 ≤ a.toNat ∧ a.toNat ≤ 0xFF3F) ∨ (0xFF4C ≤ a.toNat ∧ a.toNat ≤ 0xFF7F) →
      busRead a s = 0x00#8 ∧ busWrite a v s = s) ∧
    (0x0100 ≤ a.toNat → a.toNat < 0x8000 → cart.length ≤ a.toNat →
      busRead a (launch cart boot) = 0x00#8 ∧ busWrite a v (launch cart boot) = launch cart boot)

/-- O40. A launched machine reads its cartridge and boot images, absent bytes as 0x00 (20_memory.md R62, R63,
70_reset_and_hazards.md R460, R463, R465). That the images are lists of any length, and that a byte missing from a
boot list shorter than 256 is 0x00, is the model's choice (log 1); R63 says it of the cartridge. -/
def Obligations.LaunchHoldsTheImages : Prop :=
  ∀ (cart boot : List Byte) (a : Word),
    (a.toNat < 0x100 → busRead a (launch cart boot) = boot.getD a.toNat 0x00#8) ∧
    (0x100 ≤ a.toNat → a.toNat < 0x8000 → busRead a (launch cart boot) = cart.getD a.toNat 0x00#8) ∧
    (a.toNat < 0x8000 → busRead a { launch cart boot with bootOverlay := false } = cart.getD a.toNat 0x00#8) ∧
    (0x8000 ≤ a.toNat → busRead a (launch cart boot) = busRead a State.reset) ∧
    launch cart boot = { State.reset with mem := (launch cart boot).mem, boot := (launch cart boot).boot } ∧
    Inv (launch cart boot)

/-- O41. Words are little-endian; pop16 after push16 returns the word and restores SP (20_memory.md R76, R77,
41_load16_stack.md R168). The byte order is the spec's decision (D2; log 20). -/
def Obligations.WordsAndStack : Prop :=
  ∀ (a v : Word) (s : State),
    memRead16 a s = busRead (a + 1#16) s ++ busRead a s ∧
    memWrite16 a v s = busWrite (a + 1#16) (v.extractLsb' 8 8) (busWrite a (v.extractLsb' 0 8) s) ∧
    push16 v s = pushed v s ∧ popValue s = popped s ∧ popState s = spUp2 s ∧
    (s.mem.wf → isStorage (s.regs.sp - 1#16) = true → isStorage (s.regs.sp - 2#16) = true →
      memRead16 (push16 v s).regs.sp (push16 v s) = v ∧ popValue (push16 v s) = v ∧
      (popState (push16 v s)).regs.sp = s.regs.sp)

/-- O42. Writing a register sets it alone; a pair is the concatenation of its halves (10_state.md R20, R21, R22, R24,
30_encoding.md R103, R104, R105). That AF reads back v & 0xFFF0 is a sentence R21 marks derived from R22; the pair
operands are general knowledge of the spec (R104, R105; log 20). -/
def Obligations.RegistersAndPairs : Prop :=
  ∀ (r r' : Reg8) (b : Byte) (v : Word) (s : State),
    (s.setReg r b).reg r' = (if r' = r then b else s.reg r') ∧
    { s.setReg r b with regs := s.regs } = s ∧ (s.setReg r b).regs.f = s.regs.f ∧
    (s.setReg r b).regs.sp = s.regs.sp ∧ (s.setReg r b).regs.pc = s.regs.pc ∧
    s.pair .bc = s.regs.b ++ s.regs.c ∧ s.pair .de = s.regs.d ++ s.regs.e ∧ s.pair .hl = s.regs.h ++ s.regs.l ∧
    s.pair .sp = s.regs.sp ∧ s.stackPair .bc = s.bc ∧ s.stackPair .de = s.de ∧ s.stackPair .hl = s.hl ∧
    s.stackPair .af = s.regs.a ++ (s.regs.f &&& 0xF0#8) ∧
    s.setPair .bc v = { s with regs := { s.regs with b := v.extractLsb' 8 8, c := v.extractLsb' 0 8 } } ∧
    s.setPair .de v = { s with regs := { s.regs with d := v.extractLsb' 8 8, e := v.extractLsb' 0 8 } } ∧
    s.setPair .hl v = { s with regs := { s.regs with h := v.extractLsb' 8 8, l := v.extractLsb' 0 8 } } ∧
    s.setPair .sp v = { s with regs := { s.regs with sp := v } } ∧
    s.setStackPair .bc v = s.setBc v ∧ s.setStackPair .de v = s.setDe v ∧ s.setStackPair .hl v = s.setHl v ∧
    s.setStackPair .af v =
      { s with regs := { s.regs with a := v.extractLsb' 8 8, f := v.extractLsb' 0 8 &&& 0xF0#8 } } ∧
    (s.setBc v).bc = v ∧ (s.setDe v).de = v ∧ (s.setHl v).hl = v ∧ (s.setAf v).af = v &&& 0xFFF0#16

/-- O43. F holds Z N H C in bits 7 to 4 and zeros below (10_state.md R22). The layout is the spec's decision (D3; log
20). -/
def Obligations.FlagLayout : Prop :=
  ∀ (v : Byte) (z n h c : Bool) (s : State),
    (s.setF v).regs.f = v &&& 0xF0#8 ∧ s.f = s.regs.f &&& 0xF0#8 ∧ s.f &&& 0x0F#8 = 0#8 ∧
    s.fZ = s.f.getLsbD 7 ∧ s.fN = s.f.getLsbD 6 ∧ s.fH = s.f.getLsbD 5 ∧ s.fC = s.f.getLsbD 4 ∧
    s.setFlags z n h c = withF (flagsByte z n h c) s ∧
    flagsByte z n h c = z.toNat * 128 + n.toNat * 64 + h.toNat * 32 + c.toNat * 16

/-- O44. What the 8-bit loads into a register do (40_load8.md R130-R133, R136, R137, R140, R142, R144, R147, R149). -/
def Obligations.LoadResults : Prop :=
  ∀ (r r' : Reg8) (d8 : Byte) (a16 : Word) (s : State),
    exec (.ldRR r r') s = .next (s.setReg r (s.reg r')) ∧
    exec (.ldRD8 r d8) s = .next (s.setReg r d8) ∧
    exec (.ldRMemHl r) s = .next (s.setReg r (busRead s.hl s)) ∧
    exec .ldAMemBc s = .next (s.setReg .a (busRead s.bc s)) ∧
    exec .ldAMemDe s = .next (s.setReg .a (busRead s.de s)) ∧
    exec (.ldAMemA16 a16) s = .next (s.setReg .a (busRead a16 s)) ∧
    exec (.ldhAMemA8 d8) s = .next (s.setReg .a (busRead (0xFF#8 ++ d8) s)) ∧
    exec .ldAMemC s = .next (s.setReg .a (busRead (0xFF#8 ++ s.regs.c) s)) ∧
    exec .ldAMemHli s = .next ((s.setReg .a (busRead s.hl s)).setHl (s.hl + 1#16)) ∧
    exec .ldAMemHld s = .next ((s.setReg .a (busRead s.hl s)).setHl (s.hl - 1#16))

/-- O45. What the 8-bit stores do (40_load8.md R130, R134, R135, R138, R139, R141, R143, R145, R146, R148). -/
def Obligations.StoreResults : Prop :=
  ∀ (r : Reg8) (d8 : Byte) (a16 : Word) (s : State),
    exec (.ldMemHlR r) s = .next (busWrite s.hl (s.reg r) s) ∧
    exec (.ldMemHlD8 d8) s = .next (busWrite s.hl d8 s) ∧
    exec .ldMemBcA s = .next (busWrite s.bc s.regs.a s) ∧
    exec .ldMemDeA s = .next (busWrite s.de s.regs.a s) ∧
    exec (.ldMemA16A a16) s = .next (busWrite a16 s.regs.a s) ∧
    exec (.ldhMemA8A d8) s = .next (busWrite (0xFF#8 ++ d8) s.regs.a s) ∧
    exec .ldMemCA s = .next (busWrite (0xFF#8 ++ s.regs.c) s.regs.a s) ∧
    exec .ldMemHliA s = .next ((busWrite s.hl s.regs.a s).setHl (s.hl + 1#16)) ∧
    exec .ldMemHldA s = .next ((busWrite s.hl s.regs.a s).setHl (s.hl - 1#16))

/-- O46. What the 16-bit loads, PUSH and POP do (41_load16_stack.md R160-R167, 43_alu16.md R231). -/
def Obligations.Load16AndStackResults : Prop :=
  ∀ (rr : Pair) (q : StackPair) (w : Word) (e8 : Byte) (s : State),
    exec (.ldRrD16 rr w) s = .next (s.setPair rr w) ∧
    exec (.ldMemA16Sp w) s =
      .next (busWrite (w + 1#16) (s.regs.sp.extractLsb' 8 8) (busWrite w (s.regs.sp.extractLsb' 0 8) s)) ∧
    exec .ldSpHl s = .next { s with regs := { s.regs with sp := s.hl } } ∧
    exec (.ldHlSpE8 e8) s = .next (withF (flagsOfAddSp e8 s) (s.setHl (spPlus e8 s))) ∧
    exec (.pushRr q) s = .next (pushed (s.stackPair q) s) ∧
    exec (.popRr q) s = .next ((spUp2 s).setStackPair q (popped s)) ∧
    exec .popAf s =
      .next (withAF ((popped s).extractLsb' 8 8) ((popped s).extractLsb' 0 8 &&& 0xF0#8) (spUp2 s))

/-- O47. ADD and ADC: result and flags by exact integer addition (42_alu8.md R181, R184-R189). That the carry-in takes
part in both carries is general knowledge of the spec (R181; log 20). -/
def Obligations.AddAdcResults : Prop :=
  ∀ (r : Reg8) (d8 : Byte) (s : State),
    exec (.addAR r) s = .next (afterAdd (s.reg r) false s) ∧
    exec .addAMemHl s = .next (afterAdd (busRead s.hl s) false s) ∧
    exec (.addAD8 d8) s = .next (afterAdd d8 false s) ∧
    exec (.adcAR r) s = .next (afterAdd (s.reg r) (s.regs.f.getLsbD 4) s) ∧
    exec .adcAMemHl s = .next (afterAdd (busRead s.hl s) (s.regs.f.getLsbD 4) s) ∧
    exec (.adcAD8 d8) s = .next (afterAdd d8 (s.regs.f.getLsbD 4) s)

/-- O48. SUB, SBC and CP: result and flags by exact integer subtraction (R182). -/
def Obligations.SubSbcCpResults : Prop :=
  ∀ (r : Reg8) (d8 : Byte) (s : State),
    exec (.subAR r) s = .next (afterSub (s.reg r) false s) ∧
    exec .subAMemHl s = .next (afterSub (busRead s.hl s) false s) ∧
    exec (.subAD8 d8) s = .next (afterSub d8 false s) ∧
    exec (.sbcAR r) s = .next (afterSub (s.reg r) (s.regs.f.getLsbD 4) s) ∧
    exec .sbcAMemHl s = .next (afterSub (busRead s.hl s) (s.regs.f.getLsbD 4) s) ∧
    exec (.sbcAD8 d8) s = .next (afterSub d8 (s.regs.f.getLsbD 4) s) ∧
    exec (.cpAR r) s = .next (afterCompare (s.reg r) s) ∧
    exec .cpAMemHl s = .next (afterCompare (busRead s.hl s) s) ∧
    exec (.cpAD8 d8) s = .next (afterCompare d8 s)

/-- O49. AND, XOR and OR: result and flags (R183). -/
def Obligations.LogicResults : Prop :=
  ∀ (r : Reg8) (d8 : Byte) (s : State),
    exec (.andAR r) s = .next (afterLogic (s.regs.a &&& s.reg r) true s) ∧
    exec .andAMemHl s = .next (afterLogic (s.regs.a &&& busRead s.hl s) true s) ∧
    exec (.andAD8 d8) s = .next (afterLogic (s.regs.a &&& d8) true s) ∧
    exec (.xorAR r) s = .next (afterLogic (s.regs.a ^^^ s.reg r) false s) ∧
    exec .xorAMemHl s = .next (afterLogic (s.regs.a ^^^ busRead s.hl s) false s) ∧
    exec (.xorAD8 d8) s = .next (afterLogic (s.regs.a ^^^ d8) false s) ∧
    exec (.orAR r) s = .next (afterLogic (s.regs.a ||| s.reg r) false s) ∧
    exec .orAMemHl s = .next (afterLogic (s.regs.a ||| busRead s.hl s) false s) ∧
    exec (.orAD8 d8) s = .next (afterLogic (s.regs.a ||| d8) false s)

/-- O50. INC and DEC of a byte, DAA, CPL, SCF and CCF: result and flags (42_alu8.md R208-R215). -/
def Obligations.IncDecAdjustResults : Prop :=
  ∀ (r : Reg8) (s : State),
    exec (.incR r) s = .next (withF (flagsOfInc (s.reg r) s) (s.setReg r (s.reg r + 1#8))) ∧
    exec .incMemHl s =
      .next (withF (flagsOfInc (busRead s.hl s) s) (busWrite s.hl (busRead s.hl s + 1#8) s)) ∧
    exec (.decR r) s = .next (withF (flagsOfDec (s.reg r) s) (s.setReg r (s.reg r - 1#8))) ∧
    exec .decMemHl s =
      .next (withF (flagsOfDec (busRead s.hl s) s) (busWrite s.hl (busRead s.hl s - 1#8) s)) ∧
    exec .daa s = .next (afterDaa s) ∧
    exec .cpl s = .next (withAF (~~~ s.regs.a) (flagsByte (s.regs.f.getLsbD 7) true true (s.regs.f.getLsbD 4)) s) ∧
    exec .scf s = .next (withF (flagsByte (s.regs.f.getLsbD 7) false false true) s) ∧
    exec .ccf s = .next (withF (flagsByte (s.regs.f.getLsbD 7) false false (!s.regs.f.getLsbD 4)) s)

/-- O51. DAA after ADD or SUB of packed BCD bytes gives the decimal sum or difference (42_alu8.md R181, R182, R212,
95_test_vectors.md 3.6). -/
def Obligations.DaaIsDecimal : Prop :=
  ∀ (x y : Nat) (s : State), x < 100 → y < 100 → s.regs.a = bcd x →
    (∃ t u, exec (.addAD8 (bcd y)) s = .next t ∧ exec .daa t = .next u ∧
      u.regs.a = bcd ((x + y) % 100) ∧ u.regs.f.getLsbD 4 = decide (100 ≤ x + y)) ∧
    (∃ t u, exec (.subAD8 (bcd y)) s = .next t ∧ exec .daa t = .next u ∧
      u.regs.a = bcd ((x + 100 - y) % 100) ∧ u.regs.f.getLsbD 4 = decide (x < y))

/-- O52. ADD HL,rr, INC rr, DEC rr and ADD SP,e8 (43_alu16.md R230-R235). -/
def Obligations.Alu16Results : Prop :=
  ∀ (rr : Pair) (e8 : Byte) (s : State),
    exec (.addHlRr rr) s =
      .next (withF (flagsOfAddHl (s.pair rr) s) (s.setHl (BitVec.ofNat 16 (s.hl.toNat + (s.pair rr).toNat)))) ∧
    exec (.incRr rr) s = .next (s.setPair rr (BitVec.ofNat 16 ((s.pair rr).toNat + 1))) ∧
    exec (.decRr rr) s = .next (s.setPair rr (BitVec.ofNat 16 ((s.pair rr).toNat + 65535))) ∧
    exec (.addSpE8 e8) s =
      .next (withF (flagsOfAddSp e8 s) { s with regs := { s.regs with sp := spPlus e8 s } })

/-- O53. The rotates and shifts, in words: result, carry and flags (44_rotate_shift_bit.md R251-R271). The functions
are general knowledge of the spec (R255; log 20). -/
def Obligations.RotateResults : Prop :=
  ∀ (r : Reg8) (s : State),
    exec .rlca s = .next (afterRotateA .rlc s) ∧
    exec .rrca s = .next (afterRotateA .rrc s) ∧
    exec .rla s = .next (afterRotateA .rl s) ∧
    exec .rra s = .next (afterRotateA .rr s) ∧
    exec (.rlcR r) s = .next (afterRotateReg .rlc r s) ∧
    exec (.rrcR r) s = .next (afterRotateReg .rrc r s) ∧
    exec (.rlR r) s = .next (afterRotateReg .rl r s) ∧
    exec (.rrR r) s = .next (afterRotateReg .rr r s) ∧
    exec (.slaR r) s = .next (afterRotateReg .sla r s) ∧
    exec (.sraR r) s = .next (afterRotateReg .sra r s) ∧
    exec (.swapR r) s = .next (afterRotateReg .swap r s) ∧
    exec (.srlR r) s = .next (afterRotateReg .srl r s) ∧
    exec .rlcMemHl s = .next (afterRotateMem .rlc s) ∧
    exec .rrcMemHl s = .next (afterRotateMem .rrc s) ∧
    exec .rlMemHl s = .next (afterRotateMem .rl s) ∧
    exec .rrMemHl s = .next (afterRotateMem .rr s) ∧
    exec .slaMemHl s = .next (afterRotateMem .sla s) ∧
    exec .sraMemHl s = .next (afterRotateMem .sra s) ∧
    exec .swapMemHl s = .next (afterRotateMem .swap s) ∧
    exec .srlMemHl s = .next (afterRotateMem .srl s)

/-- O54. BIT, RES and SET on a register or the byte at HL (44_rotate_shift_bit.md R250, R272-R277). -/
def Obligations.BitResults : Prop :=
  ∀ (b : BitVec 3) (r : Reg8) (s : State),
    exec (.bitR b r) s = .next (withF (flagsOfBit b (s.reg r) s) s) ∧
    exec (.bitMemHl b) s = .next (withF (flagsOfBit b (busRead s.hl s) s) s) ∧
    exec (.resR b r) s = .next (s.setReg r (withBit b false (s.reg r))) ∧
    exec (.resMemHl b) s = .next (busWrite s.hl (withBit b false (busRead s.hl s)) s) ∧
    exec (.setR b r) s = .next (s.setReg r (withBit b true (s.reg r))) ∧
    exec (.setMemHl b) s = .next (busWrite s.hl (withBit b true (busRead s.hl s)) s)

/-- O55. Setting then testing a bit yields true; clearing then testing yields false (44_rotate_shift_bit.md R272,
R274, R276, 95_test_vectors.md E1). -/
def Obligations.SetThenTest : Prop :=
  ∀ (b : BitVec 3) (r : Reg8) (s : State),
    (∃ t u, exec (.setR b r) s = .next t ∧ exec (.bitR b r) t = .next u ∧ u.regs.f.getLsbD 7 = false) ∧
    (∃ t u, exec (.resR b r) s = .next t ∧ exec (.bitR b r) t = .next u ∧ u.regs.f.getLsbD 7 = true) ∧
    (s.mem.wf → isStorage s.hl = true →
      (∃ t u, exec (.setMemHl b) s = .next t ∧ exec (.bitMemHl b) t = .next u ∧ u.regs.f.getLsbD 7 = false) ∧
      (∃ t u, exec (.resMemHl b) s = .next t ∧ exec (.bitMemHl b) t = .next u ∧ u.regs.f.getLsbD 7 = true))

/-- O56. The jumps, calls, returns and restarts (45_control.md R290-R301, 41_load16_stack.md R168). -/
def Obligations.ControlResults : Prop :=
  ∀ (cc : Cond) (a16 : Word) (e8 : Byte) (t : BitVec 3) (s : State),
    exec (.jpA16 a16) s = .next (jumpedTo a16 s) ∧
    exec (.jpCcA16 cc a16) s = .next (if holds cc s.regs.f then jumpedTo a16 s else s) ∧
    exec .jpHl s = .next (jumpedTo s.hl s) ∧
    exec (.jrE8 e8) s = .next (jumpedTo (BitVec.ofInt 16 ((s.regs.pc.toNat : Int) + e8.toInt)) s) ∧
    exec (.jrCcE8 cc e8) s = .next (if holds cc s.regs.f
      then jumpedTo (BitVec.ofInt 16 ((s.regs.pc.toNat : Int) + e8.toInt)) s else s) ∧
    exec (.callA16 a16) s = .next (jumpedTo a16 (pushed s.regs.pc s)) ∧
    exec (.callCcA16 cc a16) s =
      .next (if holds cc s.regs.f then jumpedTo a16 (pushed s.regs.pc s) else s) ∧
    exec .ret s = .next (jumpedTo (popped s) (spUp2 s)) ∧
    exec (.retCc cc) s = .next (if holds cc s.regs.f then jumpedTo (popped s) (spUp2 s) else s) ∧
    exec .reti s = .next { jumpedTo (popped s) (spUp2 s) with ime := true, imeDelay := 0 } ∧
    exec (.rst t) s = .next (jumpedTo (BitVec.ofNat 16 (8 * t.toNat)) (pushed s.regs.pc s))

/-- O57. NOP, HALT, STOP, DI, EI, the prefix and the undefined opcodes (46_system.md R320-R326). The meaning of the
prefix's constructor is the model's (log 9), and so is the undefined opcode's record as a next state (log 4). -/
def Obligations.SystemResults : Prop :=
  ∀ (d8 op2 : Byte) (hole : Hole) (s : State),
    exec .nop s = .next s ∧
    exec .halt s = .next { s with halted := true } ∧
    exec (.stop d8) s = .next { s with stopped := true } ∧
    exec .di s = .next { s with ime := false, imeDelay := 0 } ∧
    exec .ei s = .next { s with imeDelay := if s.imeDelay = 0 then 2 else s.imeDelay } ∧
    exec (.illegal hole) s = .next { s with fault := some (.unknownOpcode hole.opcode s.regs.pc) } ∧
    exec (.prefixCb op2) s = exec (decodeExtended op2) s ∧ ∃ t, exec (.prefixCb op2) s = .next t

/-- O58. Every instruction completes and writes no CPU place the spec does not give it (42_alu8.md R216, 10_state.md
R23, R25, R41). -/
def Obligations.InstructionFrame : Prop :=
  ∀ (i : Instr) (s : State),
    ∃ t, exec i s = .next t ∧ (∀ p : Place, p ∉ written i → p.same s t) ∧ SameDevices s t

/-- O59. Every instruction leaves every byte it does not store to as it was (20_memory.md R71, R80, R83,
41_load16_stack.md R168, 10_state.md R32). -/
def Obligations.MemoryFrame : Prop :=
  ∀ (i : Instr) (s : State),
    ∃ t, exec i s = .next t ∧
      ∀ b : Word, (∀ a ∈ stores i s, touches a b = false) →
        (t.bootOverlay = s.bootOverlay ∨ 0x100 ≤ b.toNat) → busRead b t = busRead b s
end

