-- ==== Sys2Proof/Laws/Memory.lean ====
section
/-! SUPPORT. The laws of stored bytes: read after write, and that a write keeps the canonical form. -/

namespace Sys2Proof.Machine

theorem Memory.read_consCell (k j : Nat) (v : Byte) (m : Memory) :
    (Memory.consCell k v m).read j = if j = k ∧ v ≠ unlistedByte then v else m.read j := by
  unfold Memory.consCell
  by_cases hv : v = unlistedByte
  · simp [hv]
  · by_cases hj : j = k
    · simp [hv, hj, Memory.read]
    · simp [hv, hj, Memory.read, Ne.symm hj]

/-- A write leaves every other key alone, whatever the list. -/
theorem Memory.read_write_ne (k j : Nat) (v : Byte) (m : Memory) (h : j ≠ k) : (m.write k v).read j = m.read j := by
  induction m with
  | nil => simp [Memory.write, Memory.read_consCell, h]
  | cons c m ih =>
    unfold Memory.write
    split
    · simp [Memory.read, ih]
    · split
      · rename_i hk
        simp [Memory.read_consCell, h, Memory.read, hk, Ne.symm h]
      · simp [Memory.read_consCell, h]

/-- A key below every key of a list is not in it. -/
theorem Memory.read_of_lt (k : Nat) (m : Memory) (h : ∀ c ∈ m, k < c.1) : m.read k = unlistedByte := by
  induction m with
  | nil => rfl
  | cons c m ih =>
    have hc := h c (by simp)
    simp only [Memory.read, if_neg (show ¬ c.1 = k by omega)]
    exact ih fun d hd => h d (by simp [hd])

/-- A write is read back, in a list in canonical form. -/
theorem Memory.read_write_self (k : Nat) (v : Byte) (m : Memory) (h : m.wf) : (m.write k v).read k = v := by
  induction m with
  | nil =>
    by_cases hv : v = unlistedByte
    · subst hv; simp [Memory.write, Memory.consCell, Memory.read]
    · simp [Memory.write, Memory.read_consCell, hv]
  | cons c m ih =>
    have hw : Memory.wf m := ⟨(List.pairwise_cons.1 h.1).2, fun d hd => h.2 d (by simp [hd])⟩
    have hlt := (List.pairwise_cons.1 h.1).1
    unfold Memory.write
    split
    · rename_i hc
      simp only [Memory.read, if_neg (show ¬ c.1 = k by omega)]
      exact ih hw
    · split
      · rename_i hk
        rw [Memory.read_consCell]
        by_cases hv : v = unlistedByte
        · rw [if_neg (by simp [hv]), hv]
          exact Memory.read_of_lt k m fun d hd => by have := hlt d hd; omega
        · rw [if_pos ⟨rfl, hv⟩]
      · rename_i h1 h2
        rw [Memory.read_consCell]
        by_cases hv : v = unlistedByte
        · rw [if_neg (by simp [hv]), hv]
          refine Memory.read_of_lt k _ fun d hd => ?_
          rcases List.mem_cons.1 hd with rfl | hd
          · omega
          · have := hlt d hd; omega
        · rw [if_pos ⟨rfl, hv⟩]

theorem Memory.read_write (k j : Nat) (v : Byte) (m : Memory) (h : m.wf) :
    (m.write k v).read j = if j = k then v else m.read j := by
  by_cases hj : j = k
  · subst hj; rw [if_pos rfl]; exact Memory.read_write_self j v m h
  · rw [if_neg hj]; exact Memory.read_write_ne k j v m hj

/-- Every cell after a write was there, or is the one written. -/
theorem Memory.mem_write (k : Nat) (v : Byte) (m : Memory) (c : Host.Cell) (h : c ∈ m.write k v) :
    c ∈ m ∨ c = (k, v) := by
  induction m with
  | nil =>
    unfold Memory.write Memory.consCell at h
    split at h <;> simp_all
  | cons d m ih =>
    unfold Memory.write at h
    split at h
    · rcases List.mem_cons.1 h with rfl | h
      · simp
      · rcases ih h with h | h <;> simp [h]
    · split at h <;> unfold Memory.consCell at h <;> split at h <;> simp at h ⊢ <;> tauto

theorem Memory.wf_consCell (k : Nat) (v : Byte) (m : Memory) (h : m.wf) (hk : ∀ c ∈ m, k < c.1) :
    (Memory.consCell k v m).wf := by
  unfold Memory.consCell
  split
  · exact h
  · rename_i hv
    exact ⟨List.pairwise_cons.2 ⟨hk, h.1⟩, fun c hc => by
      rcases List.mem_cons.1 hc with rfl | hc
      · exact hv
      · exact h.2 c hc⟩

/-- A write keeps the canonical form. -/
theorem Memory.wf_write (k : Nat) (v : Byte) (m : Memory) (h : m.wf) : (m.write k v).wf := by
  induction m with
  | nil => exact Memory.wf_consCell k v [] h (by simp)
  | cons c m ih =>
    have hw : Memory.wf m := ⟨(List.pairwise_cons.1 h.1).2, fun d hd => h.2 d (by simp [hd])⟩
    have hlt := (List.pairwise_cons.1 h.1).1
    unfold Memory.write
    split
    · rename_i hc
      have hi := ih hw
      refine ⟨List.pairwise_cons.2 ⟨fun d hd => ?_, hi.1⟩, fun d hd => ?_⟩
      · rcases Memory.mem_write k v m d hd with hd | rfl
        · exact hlt d hd
        · exact hc
      · rcases List.mem_cons.1 hd with rfl | hd
        · exact h.2 d (by simp)
        · exact hi.2 d hd
    · split
      · rename_i hk
        exact Memory.wf_consCell k v m hw fun d hd => by have := hlt d hd; omega
      · rename_i h1 h2
        refine Memory.wf_consCell k v _ h fun d hd => ?_
        rcases List.mem_cons.1 hd with rfl | hd
        · omega
        · have := hlt d hd; omega

/-! ### Images -/

theorem Memory.mem_ofBytes (k : Nat) (bs : List Byte) (c : Host.Cell) (h : c ∈ Memory.ofBytes k bs) :
    k ≤ c.1 ∧ c.1 < k + bs.length := by
  induction bs generalizing k with
  | nil => simp [Memory.ofBytes] at h
  | cons b bs ih =>
    unfold Memory.ofBytes Memory.consCell at h
    split at h
    · have := ih (k + 1) h; simp; omega
    · rcases List.mem_cons.1 h with rfl | h
      · simp
      · have := ih (k + 1) h; simp; omega

theorem Memory.wf_ofBytes (k : Nat) (bs : List Byte) : (Memory.ofBytes k bs).wf := by
  induction bs generalizing k with
  | nil => exact ⟨List.Pairwise.nil, fun c hc => nomatch hc⟩
  | cons b bs ih =>
    exact Memory.wf_consCell k b _ (ih (k + 1)) fun c hc => by
      have := Memory.mem_ofBytes (k + 1) bs c hc; omega

/-- An image reads its bytes, and 0x00 beyond its end. -/
theorem Memory.read_ofBytes (k j : Nat) (bs : List Byte) (h : k ≤ j) :
    (Memory.ofBytes k bs).read j = bs.getD (j - k) unlistedByte := by
  induction bs generalizing k with
  | nil => simp [Memory.ofBytes, Memory.read]
  | cons b bs ih =>
    unfold Memory.ofBytes
    rw [Memory.read_consCell]
    by_cases hj : j = k
    · subst hj
      by_cases hb : b = unlistedByte
      · rw [if_neg (by simp [hb]), Memory.read_of_lt]
        · simp [hb]
        · intro c hc; have := Memory.mem_ofBytes (j + 1) bs c hc; omega
      · simp [hb]
    · rw [if_neg (by tauto), ih (k + 1) (by omega), show j - k = (j - (k + 1)) + 1 by omega, List.getD_cons_succ]

end Sys2Proof.Machine
end

