-- ==== Sys2Proof/Laws/State.lean ====
section
/-! SUPPORT. What each update of the state leaves: one lemma for a field and an update. -/

namespace Sys2Proof.Machine

/-! ### `State.setReg` -/

@[simp] theorem State.setReg_ime (r : Reg8) (v : Byte) (s : State) : (s.setReg r v).ime = s.ime := by cases r <;> rfl
@[simp] theorem State.setReg_imeDelay (r : Reg8) (v : Byte) (s : State) : (s.setReg r v).imeDelay = s.imeDelay := by cases r <;> rfl
@[simp] theorem State.setReg_halted (r : Reg8) (v : Byte) (s : State) : (s.setReg r v).halted = s.halted := by cases r <;> rfl
@[simp] theorem State.setReg_stopped (r : Reg8) (v : Byte) (s : State) : (s.setReg r v).stopped = s.stopped := by cases r <;> rfl
@[simp] theorem State.setReg_bootOverlay (r : Reg8) (v : Byte) (s : State) : (s.setReg r v).bootOverlay = s.bootOverlay := by cases r <;> rfl
@[simp] theorem State.setReg_fault (r : Reg8) (v : Byte) (s : State) : (s.setReg r v).fault = s.fault := by cases r <;> rfl
@[simp] theorem State.setReg_ifReg (r : Reg8) (v : Byte) (s : State) : (s.setReg r v).ifReg = s.ifReg := by cases r <;> rfl
@[simp] theorem State.setReg_ieReg (r : Reg8) (v : Byte) (s : State) : (s.setReg r v).ieReg = s.ieReg := by cases r <;> rfl
@[simp] theorem State.setReg_ppu (r : Reg8) (v : Byte) (s : State) : (s.setReg r v).ppu = s.ppu := by cases r <;> rfl
@[simp] theorem State.setReg_mem (r : Reg8) (v : Byte) (s : State) : (s.setReg r v).mem = s.mem := by cases r <;> rfl
@[simp] theorem State.setReg_boot (r : Reg8) (v : Byte) (s : State) : (s.setReg r v).boot = s.boot := by cases r <;> rfl
@[simp] theorem State.setReg_cartLoaded (r : Reg8) (v : Byte) (s : State) : (s.setReg r v).cartLoaded = s.cartLoaded := by cases r <;> rfl
@[simp] theorem State.setReg_totalCycles (r : Reg8) (v : Byte) (s : State) : (s.setReg r v).totalCycles = s.totalCycles := by cases r <;> rfl

/-! ### `State.setF` -/

@[simp] theorem State.setF_ime (v : Byte) (s : State) : (s.setF v).ime = s.ime := rfl
@[simp] theorem State.setF_imeDelay (v : Byte) (s : State) : (s.setF v).imeDelay = s.imeDelay := rfl
@[simp] theorem State.setF_halted (v : Byte) (s : State) : (s.setF v).halted = s.halted := rfl
@[simp] theorem State.setF_stopped (v : Byte) (s : State) : (s.setF v).stopped = s.stopped := rfl
@[simp] theorem State.setF_bootOverlay (v : Byte) (s : State) : (s.setF v).bootOverlay = s.bootOverlay := rfl
@[simp] theorem State.setF_fault (v : Byte) (s : State) : (s.setF v).fault = s.fault := rfl
@[simp] theorem State.setF_ifReg (v : Byte) (s : State) : (s.setF v).ifReg = s.ifReg := rfl
@[simp] theorem State.setF_ieReg (v : Byte) (s : State) : (s.setF v).ieReg = s.ieReg := rfl
@[simp] theorem State.setF_ppu (v : Byte) (s : State) : (s.setF v).ppu = s.ppu := rfl
@[simp] theorem State.setF_mem (v : Byte) (s : State) : (s.setF v).mem = s.mem := rfl
@[simp] theorem State.setF_boot (v : Byte) (s : State) : (s.setF v).boot = s.boot := rfl
@[simp] theorem State.setF_cartLoaded (v : Byte) (s : State) : (s.setF v).cartLoaded = s.cartLoaded := rfl
@[simp] theorem State.setF_totalCycles (v : Byte) (s : State) : (s.setF v).totalCycles = s.totalCycles := rfl

/-! ### `State.setFlags` -/

@[simp] theorem State.setFlags_ime (z n h c : Bool) (s : State) : (s.setFlags z n h c).ime = s.ime := rfl
@[simp] theorem State.setFlags_imeDelay (z n h c : Bool) (s : State) : (s.setFlags z n h c).imeDelay = s.imeDelay := rfl
@[simp] theorem State.setFlags_halted (z n h c : Bool) (s : State) : (s.setFlags z n h c).halted = s.halted := rfl
@[simp] theorem State.setFlags_stopped (z n h c : Bool) (s : State) : (s.setFlags z n h c).stopped = s.stopped := rfl
@[simp] theorem State.setFlags_bootOverlay (z n h c : Bool) (s : State) : (s.setFlags z n h c).bootOverlay = s.bootOverlay := rfl
@[simp] theorem State.setFlags_fault (z n h c : Bool) (s : State) : (s.setFlags z n h c).fault = s.fault := rfl
@[simp] theorem State.setFlags_ifReg (z n h c : Bool) (s : State) : (s.setFlags z n h c).ifReg = s.ifReg := rfl
@[simp] theorem State.setFlags_ieReg (z n h c : Bool) (s : State) : (s.setFlags z n h c).ieReg = s.ieReg := rfl
@[simp] theorem State.setFlags_ppu (z n h c : Bool) (s : State) : (s.setFlags z n h c).ppu = s.ppu := rfl
@[simp] theorem State.setFlags_mem (z n h c : Bool) (s : State) : (s.setFlags z n h c).mem = s.mem := rfl
@[simp] theorem State.setFlags_boot (z n h c : Bool) (s : State) : (s.setFlags z n h c).boot = s.boot := rfl
@[simp] theorem State.setFlags_cartLoaded (z n h c : Bool) (s : State) : (s.setFlags z n h c).cartLoaded = s.cartLoaded := rfl
@[simp] theorem State.setFlags_totalCycles (z n h c : Bool) (s : State) : (s.setFlags z n h c).totalCycles = s.totalCycles := rfl

/-! ### `State.setAf` -/

@[simp] theorem State.setAf_ime (v : Word) (s : State) : (s.setAf v).ime = s.ime := rfl
@[simp] theorem State.setAf_imeDelay (v : Word) (s : State) : (s.setAf v).imeDelay = s.imeDelay := rfl
@[simp] theorem State.setAf_halted (v : Word) (s : State) : (s.setAf v).halted = s.halted := rfl
@[simp] theorem State.setAf_stopped (v : Word) (s : State) : (s.setAf v).stopped = s.stopped := rfl
@[simp] theorem State.setAf_bootOverlay (v : Word) (s : State) : (s.setAf v).bootOverlay = s.bootOverlay := rfl
@[simp] theorem State.setAf_fault (v : Word) (s : State) : (s.setAf v).fault = s.fault := rfl
@[simp] theorem State.setAf_ifReg (v : Word) (s : State) : (s.setAf v).ifReg = s.ifReg := rfl
@[simp] theorem State.setAf_ieReg (v : Word) (s : State) : (s.setAf v).ieReg = s.ieReg := rfl
@[simp] theorem State.setAf_ppu (v : Word) (s : State) : (s.setAf v).ppu = s.ppu := rfl
@[simp] theorem State.setAf_mem (v : Word) (s : State) : (s.setAf v).mem = s.mem := rfl
@[simp] theorem State.setAf_boot (v : Word) (s : State) : (s.setAf v).boot = s.boot := rfl
@[simp] theorem State.setAf_cartLoaded (v : Word) (s : State) : (s.setAf v).cartLoaded = s.cartLoaded := rfl
@[simp] theorem State.setAf_totalCycles (v : Word) (s : State) : (s.setAf v).totalCycles = s.totalCycles := rfl

/-! ### `State.setBc` -/

@[simp] theorem State.setBc_ime (v : Word) (s : State) : (s.setBc v).ime = s.ime := rfl
@[simp] theorem State.setBc_imeDelay (v : Word) (s : State) : (s.setBc v).imeDelay = s.imeDelay := rfl
@[simp] theorem State.setBc_halted (v : Word) (s : State) : (s.setBc v).halted = s.halted := rfl
@[simp] theorem State.setBc_stopped (v : Word) (s : State) : (s.setBc v).stopped = s.stopped := rfl
@[simp] theorem State.setBc_bootOverlay (v : Word) (s : State) : (s.setBc v).bootOverlay = s.bootOverlay := rfl
@[simp] theorem State.setBc_fault (v : Word) (s : State) : (s.setBc v).fault = s.fault := rfl
@[simp] theorem State.setBc_ifReg (v : Word) (s : State) : (s.setBc v).ifReg = s.ifReg := rfl
@[simp] theorem State.setBc_ieReg (v : Word) (s : State) : (s.setBc v).ieReg = s.ieReg := rfl
@[simp] theorem State.setBc_ppu (v : Word) (s : State) : (s.setBc v).ppu = s.ppu := rfl
@[simp] theorem State.setBc_mem (v : Word) (s : State) : (s.setBc v).mem = s.mem := rfl
@[simp] theorem State.setBc_boot (v : Word) (s : State) : (s.setBc v).boot = s.boot := rfl
@[simp] theorem State.setBc_cartLoaded (v : Word) (s : State) : (s.setBc v).cartLoaded = s.cartLoaded := rfl
@[simp] theorem State.setBc_totalCycles (v : Word) (s : State) : (s.setBc v).totalCycles = s.totalCycles := rfl

/-! ### `State.setDe` -/

@[simp] theorem State.setDe_ime (v : Word) (s : State) : (s.setDe v).ime = s.ime := rfl
@[simp] theorem State.setDe_imeDelay (v : Word) (s : State) : (s.setDe v).imeDelay = s.imeDelay := rfl
@[simp] theorem State.setDe_halted (v : Word) (s : State) : (s.setDe v).halted = s.halted := rfl
@[simp] theorem State.setDe_stopped (v : Word) (s : State) : (s.setDe v).stopped = s.stopped := rfl
@[simp] theorem State.setDe_bootOverlay (v : Word) (s : State) : (s.setDe v).bootOverlay = s.bootOverlay := rfl
@[simp] theorem State.setDe_fault (v : Word) (s : State) : (s.setDe v).fault = s.fault := rfl
@[simp] theorem State.setDe_ifReg (v : Word) (s : State) : (s.setDe v).ifReg = s.ifReg := rfl
@[simp] theorem State.setDe_ieReg (v : Word) (s : State) : (s.setDe v).ieReg = s.ieReg := rfl
@[simp] theorem State.setDe_ppu (v : Word) (s : State) : (s.setDe v).ppu = s.ppu := rfl
@[simp] theorem State.setDe_mem (v : Word) (s : State) : (s.setDe v).mem = s.mem := rfl
@[simp] theorem State.setDe_boot (v : Word) (s : State) : (s.setDe v).boot = s.boot := rfl
@[simp] theorem State.setDe_cartLoaded (v : Word) (s : State) : (s.setDe v).cartLoaded = s.cartLoaded := rfl
@[simp] theorem State.setDe_totalCycles (v : Word) (s : State) : (s.setDe v).totalCycles = s.totalCycles := rfl

/-! ### `State.setHl` -/

@[simp] theorem State.setHl_ime (v : Word) (s : State) : (s.setHl v).ime = s.ime := rfl
@[simp] theorem State.setHl_imeDelay (v : Word) (s : State) : (s.setHl v).imeDelay = s.imeDelay := rfl
@[simp] theorem State.setHl_halted (v : Word) (s : State) : (s.setHl v).halted = s.halted := rfl
@[simp] theorem State.setHl_stopped (v : Word) (s : State) : (s.setHl v).stopped = s.stopped := rfl
@[simp] theorem State.setHl_bootOverlay (v : Word) (s : State) : (s.setHl v).bootOverlay = s.bootOverlay := rfl
@[simp] theorem State.setHl_fault (v : Word) (s : State) : (s.setHl v).fault = s.fault := rfl
@[simp] theorem State.setHl_ifReg (v : Word) (s : State) : (s.setHl v).ifReg = s.ifReg := rfl
@[simp] theorem State.setHl_ieReg (v : Word) (s : State) : (s.setHl v).ieReg = s.ieReg := rfl
@[simp] theorem State.setHl_ppu (v : Word) (s : State) : (s.setHl v).ppu = s.ppu := rfl
@[simp] theorem State.setHl_mem (v : Word) (s : State) : (s.setHl v).mem = s.mem := rfl
@[simp] theorem State.setHl_boot (v : Word) (s : State) : (s.setHl v).boot = s.boot := rfl
@[simp] theorem State.setHl_cartLoaded (v : Word) (s : State) : (s.setHl v).cartLoaded = s.cartLoaded := rfl
@[simp] theorem State.setHl_totalCycles (v : Word) (s : State) : (s.setHl v).totalCycles = s.totalCycles := rfl

/-! ### `State.setSp` -/

@[simp] theorem State.setSp_ime (v : Word) (s : State) : (s.setSp v).ime = s.ime := rfl
@[simp] theorem State.setSp_imeDelay (v : Word) (s : State) : (s.setSp v).imeDelay = s.imeDelay := rfl
@[simp] theorem State.setSp_halted (v : Word) (s : State) : (s.setSp v).halted = s.halted := rfl
@[simp] theorem State.setSp_stopped (v : Word) (s : State) : (s.setSp v).stopped = s.stopped := rfl
@[simp] theorem State.setSp_bootOverlay (v : Word) (s : State) : (s.setSp v).bootOverlay = s.bootOverlay := rfl
@[simp] theorem State.setSp_fault (v : Word) (s : State) : (s.setSp v).fault = s.fault := rfl
@[simp] theorem State.setSp_ifReg (v : Word) (s : State) : (s.setSp v).ifReg = s.ifReg := rfl
@[simp] theorem State.setSp_ieReg (v : Word) (s : State) : (s.setSp v).ieReg = s.ieReg := rfl
@[simp] theorem State.setSp_ppu (v : Word) (s : State) : (s.setSp v).ppu = s.ppu := rfl
@[simp] theorem State.setSp_mem (v : Word) (s : State) : (s.setSp v).mem = s.mem := rfl
@[simp] theorem State.setSp_boot (v : Word) (s : State) : (s.setSp v).boot = s.boot := rfl
@[simp] theorem State.setSp_cartLoaded (v : Word) (s : State) : (s.setSp v).cartLoaded = s.cartLoaded := rfl
@[simp] theorem State.setSp_totalCycles (v : Word) (s : State) : (s.setSp v).totalCycles = s.totalCycles := rfl

/-! ### `State.setPair` -/

@[simp] theorem State.setPair_ime (rr : Pair) (v : Word) (s : State) : (s.setPair rr v).ime = s.ime := by cases rr <;> rfl
@[simp] theorem State.setPair_imeDelay (rr : Pair) (v : Word) (s : State) : (s.setPair rr v).imeDelay = s.imeDelay := by cases rr <;> rfl
@[simp] theorem State.setPair_halted (rr : Pair) (v : Word) (s : State) : (s.setPair rr v).halted = s.halted := by cases rr <;> rfl
@[simp] theorem State.setPair_stopped (rr : Pair) (v : Word) (s : State) : (s.setPair rr v).stopped = s.stopped := by cases rr <;> rfl
@[simp] theorem State.setPair_bootOverlay (rr : Pair) (v : Word) (s : State) : (s.setPair rr v).bootOverlay = s.bootOverlay := by cases rr <;> rfl
@[simp] theorem State.setPair_fault (rr : Pair) (v : Word) (s : State) : (s.setPair rr v).fault = s.fault := by cases rr <;> rfl
@[simp] theorem State.setPair_ifReg (rr : Pair) (v : Word) (s : State) : (s.setPair rr v).ifReg = s.ifReg := by cases rr <;> rfl
@[simp] theorem State.setPair_ieReg (rr : Pair) (v : Word) (s : State) : (s.setPair rr v).ieReg = s.ieReg := by cases rr <;> rfl
@[simp] theorem State.setPair_ppu (rr : Pair) (v : Word) (s : State) : (s.setPair rr v).ppu = s.ppu := by cases rr <;> rfl
@[simp] theorem State.setPair_mem (rr : Pair) (v : Word) (s : State) : (s.setPair rr v).mem = s.mem := by cases rr <;> rfl
@[simp] theorem State.setPair_boot (rr : Pair) (v : Word) (s : State) : (s.setPair rr v).boot = s.boot := by cases rr <;> rfl
@[simp] theorem State.setPair_cartLoaded (rr : Pair) (v : Word) (s : State) : (s.setPair rr v).cartLoaded = s.cartLoaded := by cases rr <;> rfl
@[simp] theorem State.setPair_totalCycles (rr : Pair) (v : Word) (s : State) : (s.setPair rr v).totalCycles = s.totalCycles := by cases rr <;> rfl

/-! ### `State.setStackPair` -/

@[simp] theorem State.setStackPair_ime (rr : StackPair) (v : Word) (s : State) : (s.setStackPair rr v).ime = s.ime := by cases rr <;> rfl
@[simp] theorem State.setStackPair_imeDelay (rr : StackPair) (v : Word) (s : State) : (s.setStackPair rr v).imeDelay = s.imeDelay := by cases rr <;> rfl
@[simp] theorem State.setStackPair_halted (rr : StackPair) (v : Word) (s : State) : (s.setStackPair rr v).halted = s.halted := by cases rr <;> rfl
@[simp] theorem State.setStackPair_stopped (rr : StackPair) (v : Word) (s : State) : (s.setStackPair rr v).stopped = s.stopped := by cases rr <;> rfl
@[simp] theorem State.setStackPair_bootOverlay (rr : StackPair) (v : Word) (s : State) : (s.setStackPair rr v).bootOverlay = s.bootOverlay := by cases rr <;> rfl
@[simp] theorem State.setStackPair_fault (rr : StackPair) (v : Word) (s : State) : (s.setStackPair rr v).fault = s.fault := by cases rr <;> rfl
@[simp] theorem State.setStackPair_ifReg (rr : StackPair) (v : Word) (s : State) : (s.setStackPair rr v).ifReg = s.ifReg := by cases rr <;> rfl
@[simp] theorem State.setStackPair_ieReg (rr : StackPair) (v : Word) (s : State) : (s.setStackPair rr v).ieReg = s.ieReg := by cases rr <;> rfl
@[simp] theorem State.setStackPair_ppu (rr : StackPair) (v : Word) (s : State) : (s.setStackPair rr v).ppu = s.ppu := by cases rr <;> rfl
@[simp] theorem State.setStackPair_mem (rr : StackPair) (v : Word) (s : State) : (s.setStackPair rr v).mem = s.mem := by cases rr <;> rfl
@[simp] theorem State.setStackPair_boot (rr : StackPair) (v : Word) (s : State) : (s.setStackPair rr v).boot = s.boot := by cases rr <;> rfl
@[simp] theorem State.setStackPair_cartLoaded (rr : StackPair) (v : Word) (s : State) : (s.setStackPair rr v).cartLoaded = s.cartLoaded := by cases rr <;> rfl
@[simp] theorem State.setStackPair_totalCycles (rr : StackPair) (v : Word) (s : State) : (s.setStackPair rr v).totalCycles = s.totalCycles := by cases rr <;> rfl

/-! ### `State.setPc` -/

@[simp] theorem State.setPc_ime (v : Word) (s : State) : (s.setPc v).ime = s.ime := rfl
@[simp] theorem State.setPc_imeDelay (v : Word) (s : State) : (s.setPc v).imeDelay = s.imeDelay := rfl
@[simp] theorem State.setPc_halted (v : Word) (s : State) : (s.setPc v).halted = s.halted := rfl
@[simp] theorem State.setPc_stopped (v : Word) (s : State) : (s.setPc v).stopped = s.stopped := rfl
@[simp] theorem State.setPc_fault (v : Word) (s : State) : (s.setPc v).fault = s.fault := rfl
@[simp] theorem State.setPc_ifReg (v : Word) (s : State) : (s.setPc v).ifReg = s.ifReg := rfl
@[simp] theorem State.setPc_ieReg (v : Word) (s : State) : (s.setPc v).ieReg = s.ieReg := rfl
@[simp] theorem State.setPc_ppu (v : Word) (s : State) : (s.setPc v).ppu = s.ppu := rfl
@[simp] theorem State.setPc_mem (v : Word) (s : State) : (s.setPc v).mem = s.mem := rfl
@[simp] theorem State.setPc_boot (v : Word) (s : State) : (s.setPc v).boot = s.boot := rfl
@[simp] theorem State.setPc_cartLoaded (v : Word) (s : State) : (s.setPc v).cartLoaded = s.cartLoaded := rfl
@[simp] theorem State.setPc_totalCycles (v : Word) (s : State) : (s.setPc v).totalCycles = s.totalCycles := rfl

/-! ### `State.writeCell` -/

@[simp] theorem State.writeCell_regs (k : Nat) (v : Byte) (s : State) : (s.writeCell k v).regs = s.regs := rfl
@[simp] theorem State.writeCell_ime (k : Nat) (v : Byte) (s : State) : (s.writeCell k v).ime = s.ime := rfl
@[simp] theorem State.writeCell_imeDelay (k : Nat) (v : Byte) (s : State) : (s.writeCell k v).imeDelay = s.imeDelay := rfl
@[simp] theorem State.writeCell_halted (k : Nat) (v : Byte) (s : State) : (s.writeCell k v).halted = s.halted := rfl
@[simp] theorem State.writeCell_stopped (k : Nat) (v : Byte) (s : State) : (s.writeCell k v).stopped = s.stopped := rfl
@[simp] theorem State.writeCell_bootOverlay (k : Nat) (v : Byte) (s : State) : (s.writeCell k v).bootOverlay = s.bootOverlay := rfl
@[simp] theorem State.writeCell_fault (k : Nat) (v : Byte) (s : State) : (s.writeCell k v).fault = s.fault := rfl
@[simp] theorem State.writeCell_ifReg (k : Nat) (v : Byte) (s : State) : (s.writeCell k v).ifReg = s.ifReg := rfl
@[simp] theorem State.writeCell_ieReg (k : Nat) (v : Byte) (s : State) : (s.writeCell k v).ieReg = s.ieReg := rfl
@[simp] theorem State.writeCell_ppu (k : Nat) (v : Byte) (s : State) : (s.writeCell k v).ppu = s.ppu := rfl
@[simp] theorem State.writeCell_boot (k : Nat) (v : Byte) (s : State) : (s.writeCell k v).boot = s.boot := rfl
@[simp] theorem State.writeCell_cartLoaded (k : Nat) (v : Byte) (s : State) : (s.writeCell k v).cartLoaded = s.cartLoaded := rfl
@[simp] theorem State.writeCell_totalCycles (k : Nat) (v : Byte) (s : State) : (s.writeCell k v).totalCycles = s.totalCycles := rfl

/-! ### `State.request` -/

@[simp] theorem State.request_regs (n : Nat) (s : State) : (s.request n).regs = s.regs := rfl
@[simp] theorem State.request_ime (n : Nat) (s : State) : (s.request n).ime = s.ime := rfl
@[simp] theorem State.request_imeDelay (n : Nat) (s : State) : (s.request n).imeDelay = s.imeDelay := rfl
@[simp] theorem State.request_halted (n : Nat) (s : State) : (s.request n).halted = s.halted := rfl
@[simp] theorem State.request_stopped (n : Nat) (s : State) : (s.request n).stopped = s.stopped := rfl
@[simp] theorem State.request_bootOverlay (n : Nat) (s : State) : (s.request n).bootOverlay = s.bootOverlay := rfl
@[simp] theorem State.request_fault (n : Nat) (s : State) : (s.request n).fault = s.fault := rfl
@[simp] theorem State.request_ieReg (n : Nat) (s : State) : (s.request n).ieReg = s.ieReg := rfl
@[simp] theorem State.request_ppu (n : Nat) (s : State) : (s.request n).ppu = s.ppu := rfl
@[simp] theorem State.request_mem (n : Nat) (s : State) : (s.request n).mem = s.mem := rfl
@[simp] theorem State.request_boot (n : Nat) (s : State) : (s.request n).boot = s.boot := rfl
@[simp] theorem State.request_cartLoaded (n : Nat) (s : State) : (s.request n).cartLoaded = s.cartLoaded := rfl
@[simp] theorem State.request_totalCycles (n : Nat) (s : State) : (s.request n).totalCycles = s.totalCycles := rfl

/-! ### `State.setMode` -/

@[simp] theorem State.setMode_regs (m : PpuMode) (s : State) : (s.setMode m).regs = s.regs := rfl
@[simp] theorem State.setMode_ime (m : PpuMode) (s : State) : (s.setMode m).ime = s.ime := rfl
@[simp] theorem State.setMode_imeDelay (m : PpuMode) (s : State) : (s.setMode m).imeDelay = s.imeDelay := rfl
@[simp] theorem State.setMode_halted (m : PpuMode) (s : State) : (s.setMode m).halted = s.halted := rfl
@[simp] theorem State.setMode_stopped (m : PpuMode) (s : State) : (s.setMode m).stopped = s.stopped := rfl
@[simp] theorem State.setMode_bootOverlay (m : PpuMode) (s : State) : (s.setMode m).bootOverlay = s.bootOverlay := rfl
@[simp] theorem State.setMode_fault (m : PpuMode) (s : State) : (s.setMode m).fault = s.fault := rfl
@[simp] theorem State.setMode_ifReg (m : PpuMode) (s : State) : (s.setMode m).ifReg = s.ifReg := rfl
@[simp] theorem State.setMode_ieReg (m : PpuMode) (s : State) : (s.setMode m).ieReg = s.ieReg := rfl
@[simp] theorem State.setMode_mem (m : PpuMode) (s : State) : (s.setMode m).mem = s.mem := rfl
@[simp] theorem State.setMode_boot (m : PpuMode) (s : State) : (s.setMode m).boot = s.boot := rfl
@[simp] theorem State.setMode_cartLoaded (m : PpuMode) (s : State) : (s.setMode m).cartLoaded = s.cartLoaded := rfl
@[simp] theorem State.setMode_totalCycles (m : PpuMode) (s : State) : (s.setMode m).totalCycles = s.totalCycles := rfl

/-! ### The register file -/

@[simp] theorem State.setReg_f (r : Reg8) (v : Byte) (s : State) : (s.setReg r v).regs.f = s.regs.f := by cases r <;> rfl
@[simp] theorem State.setReg_sp (r : Reg8) (v : Byte) (s : State) : (s.setReg r v).regs.sp = s.regs.sp := by
  cases r <;> rfl
@[simp] theorem State.setReg_pc (r : Reg8) (v : Byte) (s : State) : (s.setReg r v).regs.pc = s.regs.pc := by
  cases r <;> rfl
@[simp] theorem State.reg_setReg_self (r : Reg8) (v : Byte) (s : State) : (s.setReg r v).reg r = v := by cases r <;> rfl
theorem State.reg_setReg_ne (r r' : Reg8) (v : Byte) (s : State) (h : r' ≠ r) : (s.setReg r v).reg r' = s.reg r' := by
  cases r <;> cases r' <;> first | rfl | exact absurd rfl h
@[simp] theorem State.setF_f (v : Byte) (s : State) : (s.setF v).regs.f = v &&& 0xF0#8 := rfl
@[simp] theorem State.setF_sp (v : Byte) (s : State) : (s.setF v).regs.sp = s.regs.sp := rfl
@[simp] theorem State.setF_pc (v : Byte) (s : State) : (s.setF v).regs.pc = s.regs.pc := rfl
@[simp] theorem State.setF_reg (v : Byte) (r : Reg8) (s : State) : (s.setF v).reg r = s.reg r := by cases r <;> rfl
@[simp] theorem State.setFlags_f (z n h c : Bool) (s : State) : (s.setFlags z n h c).regs.f = packFlags z n h c := by
  cases z <;> cases n <;> cases h <;> cases c <;> rfl
@[simp] theorem State.setFlags_sp (z n h c : Bool) (s : State) : (s.setFlags z n h c).regs.sp = s.regs.sp := rfl
@[simp] theorem State.setFlags_pc (z n h c : Bool) (s : State) : (s.setFlags z n h c).regs.pc = s.regs.pc := rfl
@[simp] theorem State.setFlags_reg (z n h c : Bool) (r : Reg8) (s : State) : (s.setFlags z n h c).reg r = s.reg r := by
  cases r <;> rfl
@[simp] theorem State.setSp_sp (v : Word) (s : State) : (s.setSp v).regs.sp = v := rfl
@[simp] theorem State.setSp_pc (v : Word) (s : State) : (s.setSp v).regs.pc = s.regs.pc := rfl
@[simp] theorem State.setSp_f (v : Word) (s : State) : (s.setSp v).regs.f = s.regs.f := rfl
@[simp] theorem State.setSp_reg (v : Word) (r : Reg8) (s : State) : (s.setSp v).reg r = s.reg r := by cases r <;> rfl
@[simp] theorem State.setPc_pc (v : Word) (s : State) : (s.setPc v).regs.pc = v := rfl
@[simp] theorem State.setPc_sp (v : Word) (s : State) : (s.setPc v).regs.sp = s.regs.sp := rfl
@[simp] theorem State.setPc_f (v : Word) (s : State) : (s.setPc v).regs.f = s.regs.f := rfl
@[simp] theorem State.setPc_reg (v : Word) (r : Reg8) (s : State) : (s.setPc v).reg r = s.reg r := by cases r <;> rfl
@[simp] theorem State.setPc_bootOverlay (v : Word) (s : State) :
    (s.setPc v).bootOverlay = (s.bootOverlay && v != 0x0100#16) := rfl
@[simp] theorem State.writeCell_mem (k : Nat) (v : Byte) (s : State) : (s.writeCell k v).mem = s.mem.write k v := rfl
@[simp] theorem State.request_ifReg (n : Nat) (s : State) : (s.request n).ifReg = s.ifReg ||| (1#8 <<< n) := rfl
@[simp] theorem State.setMode_ppu (m : PpuMode) (s : State) : (s.setMode m).ppu = { s.ppu with mode := m } := rfl

/-- Packed flags are already masked: F bits 3:0 are zero (10_state.md R22). -/
theorem packFlags_low (z n h c : Bool) : packFlags z n h c &&& 0x0F#8 = 0#8 := by
  cases z <;> cases n <;> cases h <;> cases c <;> rfl

end Sys2Proof.Machine
end

