-- ==== Sys2Proof/Laws/Bus.lean ====
section
/-! SUPPORT. The laws of the bus: what a read depends on, what a write changes, and the OAM copy. -/

namespace Sys2Proof.Machine

/-! ### The address decoder -/

/-- The rows of the decoder (20_memory.md R61). -/
theorem region_cases (ov : Bool) (a : Word) :
    (a.toNat < 0x100 ∧ ov = true ∧ region ov a = .bootImage) ∨
    (a.toNat < 0x8000 ∧ ¬ (a.toNat < 0x100 ∧ ov = true) ∧ region ov a = .rom) ∨
    (0x8000 ≤ a.toNat ∧ a.toNat < 0xA000 ∧ region ov a = .vram) ∨
    (0xA000 ≤ a.toNat ∧ a.toNat < 0xC000 ∧ region ov a = .eram) ∨
    (0xC000 ≤ a.toNat ∧ a.toNat < 0xE000 ∧ region ov a = .wram) ∨
    (0xE000 ≤ a.toNat ∧ a.toNat < 0xFE00 ∧ region ov a = .echo) ∨
    (0xFE00 ≤ a.toNat ∧ a.toNat < 0xFEA0 ∧ region ov a = .oam) ∨
    (0xFEA0 ≤ a.toNat ∧ a.toNat < 0xFF0F ∧ region ov a = .unmapped) ∨
    (0xFF0F ≤ a.toNat ∧ a.toNat < 0xFF10 ∧ region ov a = .ifReg) ∨
    (0xFF10 ≤ a.toNat ∧ a.toNat < 0xFF40 ∧ region ov a = .unmapped) ∨
    (0xFF40 ≤ a.toNat ∧ a.toNat < 0xFF4C ∧ region ov a = .ppu) ∨
    (0xFF4C ≤ a.toNat ∧ a.toNat < 0xFF80 ∧ region ov a = .unmapped) ∨
    (0xFF80 ≤ a.toNat ∧ a.toNat < 0xFFFF ∧ region ov a = .hram) ∨
    (a.toNat = 0xFFFF ∧ region ov a = .ieReg) := by
  unfold region
  dsimp only
  by_cases h0 : a.toNat < 0x0100 ∧ ov = true
  · rw [if_pos h0]; exact .inl ⟨h0.1, h0.2, rfl⟩
  rw [if_neg h0]
  by_cases h1 : a.toNat < 0x8000
  · rw [if_pos h1]; exact .inr (.inl ⟨h1, h0, rfl⟩)
  rw [if_neg h1]
  by_cases h2 : a.toNat < 0xA000
  · rw [if_pos h2]; exact .inr (.inr (.inl ⟨by omega, by omega, rfl⟩))
  rw [if_neg h2]
  by_cases h3 : a.toNat < 0xC000
  · rw [if_pos h3]; exact .inr (.inr (.inr (.inl ⟨by omega, by omega, rfl⟩)))
  rw [if_neg h3]
  by_cases h4 : a.toNat < 0xE000
  · rw [if_pos h4]; exact .inr (.inr (.inr (.inr (.inl ⟨by omega, by omega, rfl⟩))))
  rw [if_neg h4]
  by_cases h5 : a.toNat < 0xFE00
  · rw [if_pos h5]; exact .inr (.inr (.inr (.inr (.inr (.inl ⟨by omega, by omega, rfl⟩)))))
  rw [if_neg h5]
  by_cases h6 : a.toNat < 0xFEA0
  · rw [if_pos h6]; exact .inr (.inr (.inr (.inr (.inr (.inr (.inl ⟨by omega, by omega, rfl⟩))))))
  rw [if_neg h6]
  by_cases h7 : a.toNat < 0xFF0F
  · rw [if_pos h7]; exact .inr (.inr (.inr (.inr (.inr (.inr (.inr (.inl ⟨by omega, by omega, rfl⟩)))))))
  rw [if_neg h7]
  by_cases h8 : a.toNat < 0xFF10
  · rw [if_pos h8]; exact .inr (.inr (.inr (.inr (.inr (.inr (.inr (.inr (.inl ⟨by omega, by omega, rfl⟩))))))))
  rw [if_neg h8]
  by_cases h9 : a.toNat < 0xFF40
  · rw [if_pos h9]; exact .inr (.inr (.inr (.inr (.inr (.inr (.inr (.inr (.inr (.inl ⟨by omega, by omega, rfl⟩)))))))))
  rw [if_neg h9]
  by_cases h10 : a.toNat < 0xFF4C
  · rw [if_pos h10]; exact .inr (.inr (.inr (.inr (.inr (.inr (.inr (.inr (.inr (.inr (.inl ⟨by omega, by omega, rfl⟩))))))))))
  rw [if_neg h10]
  by_cases h11 : a.toNat < 0xFF80
  · rw [if_pos h11]; exact .inr (.inr (.inr (.inr (.inr (.inr (.inr (.inr (.inr (.inr (.inr (.inl ⟨by omega, by omega, rfl⟩)))))))))))
  rw [if_neg h11]
  by_cases h12 : a.toNat < 0xFFFF
  · rw [if_pos h12]; exact .inr (.inr (.inr (.inr (.inr (.inr (.inr (.inr (.inr (.inr (.inr (.inr (.inl ⟨by omega, by omega, rfl⟩))))))))))))
  rw [if_neg h12]
  exact .inr (.inr (.inr (.inr (.inr (.inr (.inr (.inr (.inr (.inr (.inr (.inr (.inr (⟨by have := a.isLt; omega, rfl⟩)))))))))))))

/-- A storage address is backed by the cell it names. -/
theorem region_storage (ov : Bool) (a : Word) (h : isStorage a = true) :
    region ov a = .vram ∨ region ov a = .eram ∨ region ov a = .wram ∨ region ov a = .echo ∨ region ov a = .oam ∨
      region ov a = .hram := by
  have h' := of_decide_eq_true h
  rcases region_cases ov a with h | h | h | h | h | h | h | h | h | h | h | h | h | h <;>
    first
      | (exfalso; omega)
      | simp [h]

/-- The echo is 0xE000 to 0xFDFF, whatever the overlay (20_memory.md R61 row 6). -/
theorem region_echo_iff (ov : Bool) (a : Word) : region ov a = .echo ↔ 0xE000 ≤ a.toNat ∧ a.toNat < 0xFE00 := by
  rcases region_cases ov a with ⟨h1, -, hr⟩ | ⟨h1, -, hr⟩ | ⟨h1, h2, hr⟩ | ⟨h1, h2, hr⟩ | ⟨h1, h2, hr⟩ |
    ⟨h1, h2, hr⟩ | ⟨h1, h2, hr⟩ | ⟨h1, h2, hr⟩ | ⟨h1, h2, hr⟩ | ⟨h1, h2, hr⟩ | ⟨h1, h2, hr⟩ | ⟨h1, h2, hr⟩ |
    ⟨h1, h2, hr⟩ | ⟨h1, hr⟩ <;>
    simp only [hr, reduceCtorEq, false_iff, true_iff] <;> omega

theorem cellOf_of_echo (ov : Bool) (a : Word) (h : region ov a = .echo) : cellOf a = echoKey a := by
  unfold cellOf
  rw [if_pos ((region_echo_iff ov a).1 h)]
  rfl

theorem cellOf_of_not_echo (ov : Bool) (a : Word) (h : region ov a ≠ .echo) : cellOf a = a.toNat := by
  unfold cellOf
  rw [if_neg fun hc => h ((region_echo_iff ov a).2 hc)]

/-- A read of storage is a read of its cell (20_memory.md R61). -/
theorem busRead_storage (a : Word) (s : State) (h : isStorage a = true) : busRead a s = s.mem.read (cellOf a) := by
  rcases region_storage s.bootOverlay a h with h | h | h | h | h | h <;>
    simp only [busRead, h] <;>
    first
      | rw [cellOf_of_echo _ _ h]
      | rw [cellOf_of_not_echo s.bootOverlay a (by simp [h])]

/-- A write of storage is a write of its cell (20_memory.md R61). -/
theorem busWrite_storage (a : Word) (v : Byte) (s : State) (h : isStorage a = true) :
    busWrite a v s = s.writeCell (cellOf a) v := by
  rcases region_storage s.bootOverlay a h with h | h | h | h | h | h <;>
    simp only [busWrite, h] <;>
    first
      | rw [cellOf_of_echo _ _ h]
      | rw [cellOf_of_not_echo s.bootOverlay a (by simp [h])]

/-! ### What a read depends on -/

/-- A read looks at the overlay latch, the images, the cells, the PPU, IF and IE, and at nothing else. -/
theorem busRead_congr (a : Word) (s t : State) (h1 : t.bootOverlay = s.bootOverlay) (h2 : t.boot = s.boot)
    (h3 : t.mem = s.mem) (h4 : t.ppu = s.ppu) (h5 : t.ifReg = s.ifReg) (h6 : t.ieReg = s.ieReg) :
    busRead a t = busRead a s := by
  simp only [busRead, h1, h2, h3, h4, h5, h6]

@[simp] theorem busRead_regs (a : Word) (s : State) (r : Regs) : busRead a { s with regs := r } = busRead a s := rfl

@[simp] theorem busRead_setReg (a : Word) (r : Reg8) (v : Byte) (s : State) :
    busRead a (s.setReg r v) = busRead a s := by cases r <;> rfl

@[simp] theorem busRead_setF (a : Word) (v : Byte) (s : State) : busRead a (s.setF v) = busRead a s := rfl

@[simp] theorem busRead_setFlags (a : Word) (z n h c : Bool) (s : State) :
    busRead a (s.setFlags z n h c) = busRead a s := rfl

@[simp] theorem busRead_setSp (a : Word) (v : Word) (s : State) : busRead a (s.setSp v) = busRead a s := rfl

@[simp] theorem busRead_setHl (a : Word) (v : Word) (s : State) : busRead a (s.setHl v) = busRead a s := rfl

/-- Writing a cell a read does not name leaves the read alone. -/
theorem busRead_writeCell (b : Word) (k : Nat) (v : Byte) (s : State) (h : cellOf b ≠ k) :
    busRead b (s.writeCell k v) = busRead b s := by
  have hb : b.toNat = k → region s.bootOverlay b = .echo := by
    intro hk
    by_contra hne
    exact h (by rw [cellOf_of_not_echo _ b hne, hk])
  have he : region s.bootOverlay b = .echo → echoKey b ≠ k := fun hr => by
    rw [← cellOf_of_echo _ b hr]; exact h
  simp only [busRead, State.writeCell_bootOverlay, State.writeCell_boot, State.writeCell_mem, State.writeCell_ppu,
    State.writeCell_ifReg, State.writeCell_ieReg]
  have hm : region s.bootOverlay b ≠ .echo → (s.mem.write k v).read b.toNat = s.mem.read b.toNat := fun hne =>
    Memory.read_write_ne _ _ _ _ fun hk => hne (hb hk)
  cases hr : region s.bootOverlay b <;> simp only [hr, ne_eq, reduceCtorEq, not_false_eq_true, forall_const] at hm he ⊢
  all_goals first
    | exact hm
    | exact Memory.read_write_ne _ _ _ _ he

/-! ### The OAM copy -/

/-- The copy changes the cells and nothing else. -/
theorem oamCopy_eq (v : Byte) (s : State) : ∃ m, oamCopy v s = { s with mem := m } := by
  suffices h : ∀ (l : List Nat) (s : State), ∃ m, l.foldl (oamCopyByte v) s = { s with mem := m } from h _ s
  intro l
  induction l with
  | nil => exact fun s => ⟨s.mem, rfl⟩
  | cons i l ih =>
    intro s
    obtain ⟨m, hm⟩ := ih (oamCopyByte v s i)
    exact ⟨m, by rw [List.foldl_cons, hm]; rfl⟩

/-- A cell the copy does not write keeps its byte. -/
theorem oamCopy_read_ne (v : Byte) (k : Nat) (s : State) (h : ¬ (0xFE00 ≤ k ∧ k < 0xFEA0)) :
    (oamCopy v s).mem.read k = s.mem.read k := by
  suffices hl : ∀ (l : List Nat) (s : State), (∀ i ∈ l, i < 160) →
      (l.foldl (oamCopyByte v) s).mem.read k = s.mem.read k from hl _ s fun i hi => List.mem_range.1 hi
  intro l
  induction l with
  | nil => intro s _; rfl
  | cons i l ih =>
    intro s hi
    have hi0 := hi i (by simp)
    rw [List.foldl_cons, ih _ fun j hj => hi j (by simp [hj])]
    exact Memory.read_write_ne _ _ _ _ (by omega)

/-- The copy leaves every byte outside OAM alone. -/
theorem busRead_oamCopy (v : Byte) (b : Word) (s : State) (h : ¬ (0xFE00 ≤ b.toNat ∧ b.toNat < 0xFEA0)) :
    busRead b (oamCopy v s) = busRead b s := by
  suffices hl : ∀ (l : List Nat) (s : State), (∀ i ∈ l, i < 160) →
      busRead b (l.foldl (oamCopyByte v) s) = busRead b s from hl _ s fun i hi => List.mem_range.1 hi
  intro l
  induction l with
  | nil => intro s _; rfl
  | cons i l ih =>
    intro s hi
    have hi0 := hi i (by simp)
    rw [List.foldl_cons, ih _ fun j hj => hi j (by simp [hj])]
    refine busRead_writeCell _ _ _ _ ?_
    unfold cellOf
    split <;> omega

/-- Whatever a write of a cell keeps, the copy keeps: for the canonical form, and for the keys. -/
theorem oamCopy_mem_induction (P : Memory → Prop) (v : Byte) (s : State)
    (hw : ∀ m k w, P m → 0xFE00 ≤ k → k < 0xFEA0 → P (m.write k w)) (h0 : P s.mem) : P (oamCopy v s).mem := by
  suffices hl : ∀ (l : List Nat) (s : State), (∀ i ∈ l, i < 160) → P s.mem → P (l.foldl (oamCopyByte v) s).mem from
    hl _ s (fun i hi => List.mem_range.1 hi) h0
  intro l
  induction l with
  | nil => intro s _ h; exact h
  | cons i l ih =>
    intro s hi h
    have hi0 := hi i (by simp)
    exact ih _ (fun j hj => hi j (by simp [hj])) (hw _ _ _ h (by omega) (by omega))

/-! ### What a write changes -/

/-- A write to a PPU register changes that register, and the cells of OAM for DMA. -/
theorem ppuWrite_eq (r : PpuReg) (v : Byte) (s : State) :
    ∃ m, ppuWrite r v s = { s with ppu := s.ppu.writeReg r v, mem := m } := by
  unfold ppuWrite
  cases r
  case dma =>
    obtain ⟨m, hm⟩ := oamCopy_eq v { s with ppu := s.ppu.writeReg .dma v }
    exact ⟨m, hm⟩
  all_goals exact ⟨s.mem, rfl⟩

/-- A write changes the cells, the PPU's registers, IF and IE, and nothing else. -/
theorem busWrite_cases (a : Word) (v : Byte) (s : State) :
    (∃ m, busWrite a v s = { s with mem := m }) ∨ busWrite a v s = { s with ifReg := v } ∨
      busWrite a v s = { s with ieReg := v } ∨
      ∃ r m, busWrite a v s = { s with ppu := s.ppu.writeReg r v, mem := m } := by
  unfold busWrite
  cases region s.bootOverlay a
  case ifReg => exact .inr (.inl rfl)
  case ieReg => exact .inr (.inr (.inl rfl))
  case ppu => exact .inr (.inr (.inr ⟨ppuRegAt a, ppuWrite_eq _ v s⟩))
  all_goals exact .inl ⟨_, rfl⟩

theorem busWrite_eq (a : Word) (v : Byte) (s : State) :
    ∃ i e p m, busWrite a v s = { s with ifReg := i, ieReg := e, ppu := p, mem := m } := by
  rcases busWrite_cases a v s with ⟨m, h⟩ | h | h | ⟨r, m, h⟩
  · exact ⟨s.ifReg, s.ieReg, s.ppu, m, h⟩
  · exact ⟨v, s.ieReg, s.ppu, s.mem, h⟩
  · exact ⟨s.ifReg, v, s.ppu, s.mem, h⟩
  · exact ⟨s.ifReg, s.ieReg, s.ppu.writeReg r v, m, h⟩

@[simp] theorem busWrite_regs (a : Word) (v : Byte) (s : State) : (busWrite a v s).regs = s.regs := by
  obtain ⟨i, e, p, m, h⟩ := busWrite_eq a v s; rw [h]
@[simp] theorem busWrite_ime (a : Word) (v : Byte) (s : State) : (busWrite a v s).ime = s.ime := by
  obtain ⟨i, e, p, m, h⟩ := busWrite_eq a v s; rw [h]
@[simp] theorem busWrite_imeDelay (a : Word) (v : Byte) (s : State) : (busWrite a v s).imeDelay = s.imeDelay := by
  obtain ⟨i, e, p, m, h⟩ := busWrite_eq a v s; rw [h]
@[simp] theorem busWrite_halted (a : Word) (v : Byte) (s : State) : (busWrite a v s).halted = s.halted := by
  obtain ⟨i, e, p, m, h⟩ := busWrite_eq a v s; rw [h]
@[simp] theorem busWrite_stopped (a : Word) (v : Byte) (s : State) : (busWrite a v s).stopped = s.stopped := by
  obtain ⟨i, e, p, m, h⟩ := busWrite_eq a v s; rw [h]
@[simp] theorem busWrite_bootOverlay (a : Word) (v : Byte) (s : State) :
    (busWrite a v s).bootOverlay = s.bootOverlay := by
  obtain ⟨i, e, p, m, h⟩ := busWrite_eq a v s; rw [h]
@[simp] theorem busWrite_fault (a : Word) (v : Byte) (s : State) : (busWrite a v s).fault = s.fault := by
  obtain ⟨i, e, p, m, h⟩ := busWrite_eq a v s; rw [h]
@[simp] theorem busWrite_boot (a : Word) (v : Byte) (s : State) : (busWrite a v s).boot = s.boot := by
  obtain ⟨i, e, p, m, h⟩ := busWrite_eq a v s; rw [h]
@[simp] theorem busWrite_cartLoaded (a : Word) (v : Byte) (s : State) : (busWrite a v s).cartLoaded = s.cartLoaded := by
  obtain ⟨i, e, p, m, h⟩ := busWrite_eq a v s; rw [h]
@[simp] theorem busWrite_totalCycles (a : Word) (v : Byte) (s : State) :
    (busWrite a v s).totalCycles = s.totalCycles := by
  obtain ⟨i, e, p, m, h⟩ := busWrite_eq a v s; rw [h]
@[simp] theorem busWrite_reg (a : Word) (v : Byte) (r : Reg8) (s : State) : (busWrite a v s).reg r = s.reg r := by
  cases r <;> simp [State.reg]

theorem oamCopy_withRegs (v : Byte) (s : State) (r : Regs) :
    oamCopy v { s with regs := r } = { oamCopy v s with regs := r } := by
  have hb : ∀ (s : State) (i : Nat), oamCopyByte v { s with regs := r } i = { oamCopyByte v s i with regs := r } := by
    intro s i
    unfold oamCopyByte
    rw [busRead_regs]
    rfl
  suffices hc : ∀ (l : List Nat) (s : State), l.foldl (oamCopyByte v) { s with regs := r } =
      { l.foldl (oamCopyByte v) s with regs := r } from hc _ s
  intro l
  induction l with
  | nil => exact fun s => rfl
  | cons i l ih =>
    intro s
    rw [List.foldl_cons, List.foldl_cons, hb, ih]

theorem ppuWrite_withRegs (q : PpuReg) (v : Byte) (s : State) (r : Regs) :
    ppuWrite q v { s with regs := r } = { ppuWrite q v s with regs := r } := by
  cases q
  case dma => exact oamCopy_withRegs v { s with ppu := s.ppu.writeReg .dma v } r
  all_goals rfl

/-- A write does not look at the register file. -/
theorem busWrite_withRegs (a : Word) (v : Byte) (s : State) (r : Regs) :
    busWrite a v { s with regs := r } = { busWrite a v s with regs := r } := by
  cases hr : region s.bootOverlay a <;> simp only [busWrite, hr, ppuWrite_withRegs] <;> rfl

/-- A write to a PPU register leaves LY, the mode, the mode counter and the frames alone (61_ppu.md R405). -/
theorem writeReg_devices (r : PpuReg) (v : Byte) (p : Ppu) :
    (p.writeReg r v |>.ly) = p.ly ∧ (p.writeReg r v).mode = p.mode ∧ (p.writeReg r v).modeCycles = p.modeCycles ∧
      (p.writeReg r v).work = p.work ∧ (p.writeReg r v).frames = p.frames := by
  cases r <;> exact ⟨rfl, rfl, rfl, rfl, rfl⟩

end Sys2Proof.Machine
end

