-- ==== Sys2Proof/Laws/Ops.lean ====
section
/-! SUPPORT. The laws of the shared operations: the stack, taking an interrupt, the end of a step, flags. -/

namespace Sys2Proof.Machine

/-- `push16` as two stores and one change of SP. -/
theorem push16_eq (v : Word) (s : State) :
    push16 v s =
      (busWrite (s.regs.sp - 2#16) (lo v) (busWrite (s.regs.sp - 1#16) (hi v) s)).setSp (s.regs.sp - 2#16) := by
  unfold push16
  simp only [State.setSp, busWrite_withRegs, busWrite_regs]
  simp only [show s.regs.sp - 1#16 - 1#16 = s.regs.sp - 2#16 by bv_omega]

@[simp] theorem push16_sp (v : Word) (s : State) : (push16 v s).regs.sp = s.regs.sp - 2#16 := by simp [push16_eq]
@[simp] theorem push16_pc (v : Word) (s : State) : (push16 v s).regs.pc = s.regs.pc := by simp [push16_eq]
@[simp] theorem push16_f (v : Word) (s : State) : (push16 v s).regs.f = s.regs.f := by simp [push16_eq]
@[simp] theorem push16_reg (v : Word) (r : Reg8) (s : State) : (push16 v s).reg r = s.reg r := by simp [push16_eq]
@[simp] theorem push16_ime (v : Word) (s : State) : (push16 v s).ime = s.ime := by simp [push16_eq]
@[simp] theorem push16_imeDelay (v : Word) (s : State) : (push16 v s).imeDelay = s.imeDelay := by simp [push16_eq]
@[simp] theorem push16_halted (v : Word) (s : State) : (push16 v s).halted = s.halted := by simp [push16_eq]
@[simp] theorem push16_stopped (v : Word) (s : State) : (push16 v s).stopped = s.stopped := by simp [push16_eq]
@[simp] theorem push16_fault (v : Word) (s : State) : (push16 v s).fault = s.fault := by simp [push16_eq]
@[simp] theorem push16_bootOverlay (v : Word) (s : State) : (push16 v s).bootOverlay = s.bootOverlay := by
  simp [push16_eq]
@[simp] theorem push16_boot (v : Word) (s : State) : (push16 v s).boot = s.boot := by simp [push16_eq]
@[simp] theorem push16_cartLoaded (v : Word) (s : State) : (push16 v s).cartLoaded = s.cartLoaded := by
  simp [push16_eq]
@[simp] theorem push16_totalCycles (v : Word) (s : State) : (push16 v s).totalCycles = s.totalCycles := by
  simp [push16_eq]

@[simp] theorem takeInterrupt_ime (n : Nat) (s : State) : (takeInterrupt n s).ime = false := by simp [takeInterrupt]
@[simp] theorem takeInterrupt_sp (n : Nat) (s : State) : (takeInterrupt n s).regs.sp = s.regs.sp - 2#16 := by
  simp [takeInterrupt]
@[simp] theorem takeInterrupt_pc (n : Nat) (s : State) : (takeInterrupt n s).regs.pc = vectorFor n := by
  simp [takeInterrupt]
@[simp] theorem takeInterrupt_reg (n : Nat) (r : Reg8) (s : State) : (takeInterrupt n s).reg r = s.reg r := by
  simp [takeInterrupt]; cases r <;> rfl
@[simp] theorem takeInterrupt_f (n : Nat) (s : State) : (takeInterrupt n s).regs.f = s.regs.f := by
  simp [takeInterrupt]
@[simp] theorem takeInterrupt_fault (n : Nat) (s : State) : (takeInterrupt n s).fault = s.fault := by
  simp [takeInterrupt]
@[simp] theorem takeInterrupt_totalCycles (n : Nat) (s : State) :
    (takeInterrupt n s).totalCycles = s.totalCycles := by simp [takeInterrupt]

/-- `tick_ime` changes nothing but IME and its delay. -/
theorem tickIme_frame (s : State) :
    ∃ b n, tickIme s = { s with ime := b, imeDelay := n } ∧ n ≤ s.imeDelay ∧ (s.ime = true → b = true) := by
  unfold tickIme
  split
  · exact ⟨_, _, rfl, Nat.sub_le _ _, fun h => by simp [h]⟩
  · exact ⟨s.ime, s.imeDelay, rfl, Nat.le_refl _, id⟩

/-- An accumulator operation writes A (but for `CP`) and the four flags. -/
theorem accumulate_frame (op : AluOp) (x : Byte) (s : State) :
    ∃ a z n h c, accumulate op x s = (s.setReg .a a).setFlags z n h c ∧ (op = .cp → a = s.regs.a) := by
  cases op <;> exact ⟨_, _, _, _, _, rfl, by simp⟩

/-- The flags of `setFlags`, one by one. -/
theorem packFlags_bits (z n h c : Bool) :
    (packFlags z n h c).getLsbD 7 = z ∧ (packFlags z n h c).getLsbD 6 = n ∧ (packFlags z n h c).getLsbD 5 = h ∧
      (packFlags z n h c).getLsbD 4 = c := by
  cases z <;> cases n <;> cases h <;> cases c <;> decide

/-- The advance leaves everything but PC and the latch. -/
theorem advance_frame (i : Instr) (s : State) :
    ∃ pc ov, advance i s = { s with regs := { s.regs with pc := pc }, bootOverlay := ov } ∧
      (ov = true → s.bootOverlay = true ∧ (size i ≠ 0 → pc ≠ 0x0100#16)) := by
  unfold advance
  split
  · rename_i h
    exact ⟨s.regs.pc, s.bootOverlay, rfl, fun h' => ⟨h', fun hc => absurd h hc⟩⟩
  · refine ⟨_, _, rfl, fun h => ?_⟩
    simp only [Bool.and_eq_true, bne_iff_ne] at h
    exact ⟨h.1, fun _ => h.2⟩

end Sys2Proof.Machine
end

