-- ==== Sys2Proof/Laws/PerInstr.lean ====
section
/-! SUPPORT. Statements made per instruction: the length of its encoding. -/

namespace Sys2Proof.Laws.EncodedLength

/-- The encoding has a first byte, and "a function of its first byte alone" gives how many bytes follow it
(30_encoding.md R113). -/
def Statement (i : Instr) : Prop :=
  (encode i).length = bytesAfter ((encode i).headD 0x00#8) + 1

theorem nop : Statement .nop := rfl

theorem ldRrD16 (rr : Pair) (d16 : Word) : Statement (.ldRrD16 rr d16) := by
  cases rr <;> rfl

theorem ldMemBcA : Statement .ldMemBcA := rfl

theorem ldMemDeA : Statement .ldMemDeA := rfl

theorem ldMemHliA : Statement .ldMemHliA := rfl

theorem ldMemHldA : Statement .ldMemHldA := rfl

theorem incRr (rr : Pair) : Statement (.incRr rr) := by
  cases rr <;> rfl

theorem incR (r : Reg8) : Statement (.incR r) := by
  cases r <;> rfl

theorem incMemHl : Statement .incMemHl := rfl

theorem decR (r : Reg8) : Statement (.decR r) := by
  cases r <;> rfl

theorem decMemHl : Statement .decMemHl := rfl

theorem ldRD8 (r : Reg8) (d8 : Byte) : Statement (.ldRD8 r d8) := by
  cases r <;> rfl

theorem ldMemHlD8 (d8 : Byte) : Statement (.ldMemHlD8 d8) := rfl

theorem rlca : Statement .rlca := rfl

theorem rrca : Statement .rrca := rfl

theorem rla : Statement .rla := rfl

theorem rra : Statement .rra := rfl

theorem daa : Statement .daa := rfl

theorem cpl : Statement .cpl := rfl

theorem scf : Statement .scf := rfl

theorem ccf : Statement .ccf := rfl

theorem ldMemA16Sp (a16 : Word) : Statement (.ldMemA16Sp a16) := rfl

theorem addHlRr (rr : Pair) : Statement (.addHlRr rr) := by
  cases rr <;> rfl

theorem ldAMemBc : Statement .ldAMemBc := rfl

theorem ldAMemDe : Statement .ldAMemDe := rfl

theorem ldAMemHli : Statement .ldAMemHli := rfl

theorem ldAMemHld : Statement .ldAMemHld := rfl

theorem decRr (rr : Pair) : Statement (.decRr rr) := by
  cases rr <;> rfl

theorem stop (d8 : Byte) : Statement (.stop d8) := rfl

theorem jrE8 (e8 : Byte) : Statement (.jrE8 e8) := rfl

theorem jrCcE8 (cc : Cond) (e8 : Byte) : Statement (.jrCcE8 cc e8) := by
  cases cc <;> rfl

theorem ldRR (rd : Reg8) (rs : Reg8) : Statement (.ldRR rd rs) := by
  cases rd <;> cases rs <;> rfl

theorem ldRMemHl (r : Reg8) : Statement (.ldRMemHl r) := by
  cases r <;> rfl

theorem ldMemHlR (r : Reg8) : Statement (.ldMemHlR r) := by
  cases r <;> rfl

theorem halt : Statement .halt := rfl

theorem addAR (r : Reg8) : Statement (.addAR r) := by
  cases r <;> rfl

theorem addAMemHl : Statement .addAMemHl := rfl

theorem adcAR (r : Reg8) : Statement (.adcAR r) := by
  cases r <;> rfl

theorem adcAMemHl : Statement .adcAMemHl := rfl

theorem subAR (r : Reg8) : Statement (.subAR r) := by
  cases r <;> rfl

theorem subAMemHl : Statement .subAMemHl := rfl

theorem sbcAR (r : Reg8) : Statement (.sbcAR r) := by
  cases r <;> rfl

theorem sbcAMemHl : Statement .sbcAMemHl := rfl

theorem andAR (r : Reg8) : Statement (.andAR r) := by
  cases r <;> rfl

theorem andAMemHl : Statement .andAMemHl := rfl

theorem xorAR (r : Reg8) : Statement (.xorAR r) := by
  cases r <;> rfl

theorem xorAMemHl : Statement .xorAMemHl := rfl

theorem orAR (r : Reg8) : Statement (.orAR r) := by
  cases r <;> rfl

theorem orAMemHl : Statement .orAMemHl := rfl

theorem cpAR (r : Reg8) : Statement (.cpAR r) := by
  cases r <;> rfl

theorem cpAMemHl : Statement .cpAMemHl := rfl

theorem addAD8 (d8 : Byte) : Statement (.addAD8 d8) := rfl

theorem adcAD8 (d8 : Byte) : Statement (.adcAD8 d8) := rfl

theorem subAD8 (d8 : Byte) : Statement (.subAD8 d8) := rfl

theorem sbcAD8 (d8 : Byte) : Statement (.sbcAD8 d8) := rfl

theorem andAD8 (d8 : Byte) : Statement (.andAD8 d8) := rfl

theorem xorAD8 (d8 : Byte) : Statement (.xorAD8 d8) := rfl

theorem orAD8 (d8 : Byte) : Statement (.orAD8 d8) := rfl

theorem cpAD8 (d8 : Byte) : Statement (.cpAD8 d8) := rfl

theorem retCc (cc : Cond) : Statement (.retCc cc) := by
  cases cc <;> rfl

theorem popRr (rr : StackPair) : Statement (.popRr rr) := by
  cases rr <;> rfl

theorem popAf : Statement .popAf := rfl

theorem jpCcA16 (cc : Cond) (a16 : Word) : Statement (.jpCcA16 cc a16) := by
  cases cc <;> rfl

theorem jpA16 (a16 : Word) : Statement (.jpA16 a16) := rfl

theorem callCcA16 (cc : Cond) (a16 : Word) : Statement (.callCcA16 cc a16) := by
  cases cc <;> rfl

theorem pushRr (rr : StackPair) : Statement (.pushRr rr) := by
  cases rr <;> rfl

theorem rst (t : BitVec 3) : Statement (.rst t) := by
  unfold Statement
  revert t
  decide

theorem ret : Statement .ret := rfl

theorem reti : Statement .reti := rfl

theorem prefixCb (op2 : Byte) : Statement (.prefixCb op2) := rfl

theorem callA16 (a16 : Word) : Statement (.callA16 a16) := rfl

theorem ldhMemA8A (a8 : Byte) : Statement (.ldhMemA8A a8) := rfl

theorem ldhAMemA8 (a8 : Byte) : Statement (.ldhAMemA8 a8) := rfl

theorem ldMemCA : Statement .ldMemCA := rfl

theorem ldAMemC : Statement .ldAMemC := rfl

theorem addSpE8 (e8 : Byte) : Statement (.addSpE8 e8) := rfl

theorem ldHlSpE8 (e8 : Byte) : Statement (.ldHlSpE8 e8) := rfl

theorem jpHl : Statement .jpHl := rfl

theorem ldSpHl : Statement .ldSpHl := rfl

theorem ldMemA16A (a16 : Word) : Statement (.ldMemA16A a16) := rfl

theorem ldAMemA16 (a16 : Word) : Statement (.ldAMemA16 a16) := rfl

theorem di : Statement .di := rfl

theorem ei : Statement .ei := rfl

theorem illegal (hole : Hole) : Statement (.illegal hole) := by
  cases hole <;> rfl

theorem rlcR (r : Reg8) : Statement (.rlcR r) := by
  cases r <;> rfl

theorem rlcMemHl : Statement .rlcMemHl := rfl

theorem rrcR (r : Reg8) : Statement (.rrcR r) := by
  cases r <;> rfl

theorem rrcMemHl : Statement .rrcMemHl := rfl

theorem rlR (r : Reg8) : Statement (.rlR r) := by
  cases r <;> rfl

theorem rlMemHl : Statement .rlMemHl := rfl

theorem rrR (r : Reg8) : Statement (.rrR r) := by
  cases r <;> rfl

theorem rrMemHl : Statement .rrMemHl := rfl

theorem slaR (r : Reg8) : Statement (.slaR r) := by
  cases r <;> rfl

theorem slaMemHl : Statement .slaMemHl := rfl

theorem sraR (r : Reg8) : Statement (.sraR r) := by
  cases r <;> rfl

theorem sraMemHl : Statement .sraMemHl := rfl

theorem swapR (r : Reg8) : Statement (.swapR r) := by
  cases r <;> rfl

theorem swapMemHl : Statement .swapMemHl := rfl

theorem srlR (r : Reg8) : Statement (.srlR r) := by
  cases r <;> rfl

theorem srlMemHl : Statement .srlMemHl := rfl

theorem bitR (b : BitVec 3) (r : Reg8) : Statement (.bitR b r) := by
  cases r <;> rfl

theorem bitMemHl (b : BitVec 3) : Statement (.bitMemHl b) := rfl

theorem resR (b : BitVec 3) (r : Reg8) : Statement (.resR b r) := by
  cases r <;> rfl

theorem resMemHl (b : BitVec 3) : Statement (.resMemHl b) := rfl

theorem setR (b : BitVec 3) (r : Reg8) : Statement (.setR b r) := by
  cases r <;> rfl

theorem setMemHl (b : BitVec 3) : Statement (.setMemHl b) := rfl

end Sys2Proof.Laws.EncodedLength
end

