-- ==== Sys2Proof/Laws/Ppu.lean ====
section
/-! SUPPORT. The laws of the PPU: what a transition keeps, and that the loop of `PpuStep` has fuel enough. -/

namespace Sys2Proof.Machine

/-- `s` with another mode counter. -/
def State.withModeCycles (n : Nat) (s : State) : State := { s with ppu := { s.ppu with modeCycles := n } }

/-- `requestStat` adds bit 1 to IF or nothing. -/
theorem requestStat_eq (bit : Nat) (s : State) :
    requestStat bit s = { s with ifReg := if s.ppu.statEn.getLsbD bit then s.ifReg ||| 2#8 else s.ifReg } := by
  unfold requestStat
  by_cases h : s.ppu.statEn.getLsbD bit = true
  · simp only [h, ↓reduceIte]; rfl
  · simp only [h]; rfl

/-- A line's shades do not depend on the mode counter. -/
theorem linePixels_withModeCycles (n ly : Nat) (s : State) : linePixels ly (s.withModeCycles n) = linePixels ly s := rfl

/-- A transition does not look at the mode counter, and keeps it. -/
theorem endMode_withModeCycles (n : Nat) (s : State) : endMode (s.withModeCycles n) = (endMode s).withModeCycles n := by
  unfold endMode
  have hm : (s.withModeCycles n).ppu.mode = s.ppu.mode := rfl
  rw [hm]
  cases s.ppu.mode <;> simp only
  · unfold endHblank
    have hl : (s.withModeCycles n).ppu.ly = s.ppu.ly := rfl
    rw [hl]
    split <;> simp only [requestStat_eq, setLy, deliverFrame, State.setMode, State.request, State.withModeCycles] <;>
      split <;> rfl
  · unfold endVblankLine
    have hl : (s.withModeCycles n).ppu.ly = s.ppu.ly := rfl
    rw [hl]
    split <;> simp only [requestStat_eq, setLy, State.setMode, State.withModeCycles] <;> split <;> rfl
  · rfl
  · unfold endPixelTransfer
    simp only [requestStat_eq, renderLine, State.setMode]
    rfl

@[simp] theorem endMode_modeCycles (s : State) : (endMode s).ppu.modeCycles = s.ppu.modeCycles := by
  have h := endMode_withModeCycles s.ppu.modeCycles s
  rw [show s.withModeCycles s.ppu.modeCycles = s from rfl] at h
  rw [h]
  rfl

theorem modeLength_pos (m : PpuMode) : 80 ≤ modeLength m := by cases m <;> decide

/-- Any two amounts of fuel above `modeCycles / 80` give the same state. -/
theorem ppuLoop_fuel (f g : Nat) (s : State) (hf : s.ppu.modeCycles < 80 * f) (hg : s.ppu.modeCycles < 80 * g) :
    ppuLoop f s = ppuLoop g s := by
  induction f generalizing g s with
  | zero => omega
  | succ f ih =>
    cases g with
    | zero => omega
    | succ g =>
      unfold ppuLoop
      have := modeLength_pos s.ppu.mode
      split
      · exact ih _ _ (by simp only [endMode_modeCycles]; omega) (by simp only [endMode_modeCycles]; omega)
      · rfl

/-- What the transitions and a change of the mode counter keep, `PpuStep` keeps. -/
theorem ppuStep_induction (P : State → Prop) (hc : ∀ s n, P s → P (s.withModeCycles n)) (he : ∀ s, P s → P (endMode s))
    (c : Nat) (s : State) (h : P s) : P (ppuStep c s) := by
  suffices hl : ∀ f s, P s → P (ppuLoop f s) from hl _ _ (hc s _ h)
  intro f
  induction f with
  | zero => exact fun s h => h
  | succ f ih =>
    intro s h
    unfold ppuLoop
    split
    · exact ih _ (he _ (hc s _ h))
    · exact h

end Sys2Proof.Machine
end

