-- ==== Sys2Proof/Tests/Slice0.lean ====
section
/-! SUPPORT. Tests. Expected values come from the spec's vectors and worked examples (95_test_vectors.md) or are worked
out by hand from the cited rule. -/

namespace Sys2Proof.Tests

open Sys2Proof Sys2Proof.Machine

/-- The start state of 95_test_vectors.md section 2: the code at 0x0100, SP = 0xFFFE, the overlay off. -/
def testState (code : List Byte) : State :=
  { State.reset with regs := { Regs.reset with pc := 0x0100#16, sp := 0xFFFE#16 }, bootOverlay := false,
                     mem := Memory.ofBytes 0x0100 code }

/-- One step answers a next state that passes the test. -/
def nextHas (s : State) (test : State → Bool) : Bool :=
  match step s with
  | .next t => test t
  | _ => false

/-! ### Well-formedness: the ill-formed terms are refused -/

theorem test_wf_pop_rr_refuses_af : (Instr.popRr .af).wf = false := by decide
theorem test_wf_prefix_is_no_instruction : (Instr.prefixCb 0x37#8).wf = false := by decide
theorem test_wf_pop_af : Instr.popAf.wf = true ∧ (Instr.popRr .hl).wf = true := by decide

/-! ### One step of each instruction -/

/-- R131: `LD B,C`, 95_test_vectors.md. -/
theorem test_ld_r_r :
    nextHas (((testState [0x41#8]).setReg .b 0x11#8).setReg .c 0x22#8) (fun t =>
      t.reg .b == 0x22#8 && t.reg .c == 0x22#8 && t.regs.pc == 0x0101#16 && t.totalCycles == 4) = true := by decide

/-- R132: `LD D,0x9C`, 95_test_vectors.md. -/
theorem test_ld_r_d8 :
    nextHas (testState [0x16#8, 0x9C#8]) (fun t =>
      t.reg .d == 0x9C#8 && t.regs.pc == 0x0102#16 && t.totalCycles == 8) = true := by decide

/-- R133: `LD E,(HL)`, 95_test_vectors.md. -/
theorem test_ld_r_mem_hl :
    nextHas (((testState [0x5E#8]).setHl 0xC123#16).writeCell 0xC123 0x77#8) (fun t =>
      t.reg .e == 0x77#8 && t.hl == 0xC123#16 && t.regs.pc == 0x0101#16 && t.totalCycles == 8) = true := by decide

/-- R134: `LD (HL),B`, 95_test_vectors.md. -/
theorem test_ld_mem_hl_r :
    nextHas (((testState [0x70#8]).setHl 0xC123#16).setReg .b 0x42#8) (fun t =>
      busRead 0xC123#16 t == 0x42#8 && t.regs.pc == 0x0101#16 && t.totalCycles == 8) = true := by decide

/-- R134: `LD (HL),B to ROM`, 95_test_vectors.md. -/
theorem test_ld_mem_hl_r_again :
    nextHas (((testState [0x70#8]).setHl 0x0200#16).setReg .b 0x42#8) (fun t =>
      busRead 0x0200#16 t == 0x00#8 && t.regs.pc == 0x0101#16 && t.totalCycles == 8) = true := by decide

/-- R135: `LD (HL),0x99`, 95_test_vectors.md. -/
theorem test_ld_mem_hl_d8 :
    nextHas ((testState [0x36#8, 0x99#8]).setHl 0xC000#16) (fun t =>
      busRead 0xC000#16 t == 0x99#8 && t.regs.pc == 0x0102#16 && t.totalCycles == 12) = true := by decide

/-- R136: `LD A,(BC)`, 95_test_vectors.md. -/
theorem test_ld_a_mem_bc :
    nextHas (((testState [0x0A#8]).setBc 0xC010#16).writeCell 0xC010 0x3C#8) (fun t =>
      t.reg .a == 0x3C#8 && t.regs.pc == 0x0101#16 && t.totalCycles == 8) = true := by decide

/-- R137: `LD A,(DE)`, 95_test_vectors.md. -/
theorem test_ld_a_mem_de :
    nextHas (((testState [0x1A#8]).setDe 0xFF80#16).writeCell 0xFF80 0xA5#8) (fun t =>
      t.reg .a == 0xA5#8 && t.regs.pc == 0x0101#16 && t.totalCycles == 8) = true := by decide

/-- R138: `LD (BC),A`, 95_test_vectors.md. -/
theorem test_ld_mem_bc_a :
    nextHas (((testState [0x02#8]).setBc 0xC010#16).setReg .a 0x7E#8) (fun t =>
      busRead 0xC010#16 t == 0x7E#8 && t.regs.pc == 0x0101#16 && t.totalCycles == 8) = true := by decide

/-- R139: `LD (DE),A`, 95_test_vectors.md. -/
theorem test_ld_mem_de_a :
    nextHas (((testState [0x12#8]).setDe 0x8000#16).setReg .a 0x81#8) (fun t =>
      busRead 0x8000#16 t == 0x81#8 && t.regs.pc == 0x0101#16 && t.totalCycles == 8) = true := by decide

/-- R140: `LD A,(0xC0DE)`, 95_test_vectors.md. -/
theorem test_ld_a_mem_a16 :
    nextHas ((testState [0xFA#8, 0xDE#8, 0xC0#8]).writeCell 0xC0DE 0x66#8) (fun t =>
      t.reg .a == 0x66#8 && t.regs.pc == 0x0103#16 && t.totalCycles == 16) = true := by decide

/-- R141: `LD (0xE000),A`, 95_test_vectors.md. -/
theorem test_ld_mem_a16_a :
    nextHas ((testState [0xEA#8, 0x00#8, 0xE0#8]).setReg .a 0x5A#8) (fun t =>
      busRead 0xC000#16 t == 0x5A#8 && busRead 0xE000#16 t == 0x5A#8 && t.regs.pc == 0x0103#16 &&
      t.totalCycles == 16) = true := by decide

/-- R143: `LDH (0x80),A`, 95_test_vectors.md. -/
theorem test_ldh_mem_a8_a :
    nextHas ((testState [0xE0#8, 0x80#8]).setReg .a 0x12#8) (fun t =>
      busRead 0xFF80#16 t == 0x12#8 && t.regs.pc == 0x0102#16 && t.totalCycles == 12) = true := by decide

/-- R142: `LDH A,(0x44)`, 95_test_vectors.md. -/
theorem test_ldh_a_mem_a8 :
    nextHas ((testState [0xF0#8, 0x44#8]).setReg .a 0xFF#8) (fun t =>
      t.reg .a == 0x00#8 && t.regs.pc == 0x0102#16 && t.totalCycles == 12) = true := by decide

/-- R145: `LD (C),A`, 95_test_vectors.md. -/
theorem test_ld_mem_c_a :
    nextHas (((testState [0xE2#8]).setReg .a 0x1F#8).setReg .c 0xFF#8) (fun t =>
      busRead 0xFFFF#16 t == 0x1F#8 && t.regs.pc == 0x0101#16 && t.totalCycles == 8) = true := by decide

/-- R144: `LD A,(C)`, 95_test_vectors.md. -/
theorem test_ld_a_mem_c :
    nextHas { ((testState [0xF2#8]).setReg .c 0x0F#8) with ifReg := 0x15#8 } (fun t =>
      t.reg .a == 0x15#8 && t.regs.pc == 0x0101#16 && t.totalCycles == 8) = true := by decide

/-- R146: `LD (HL+),A`, 95_test_vectors.md. -/
theorem test_ld_mem_hli_a :
    nextHas (((testState [0x22#8]).setHl 0xDFFF#16).setReg .a 0x33#8) (fun t =>
      busRead 0xDFFF#16 t == 0x33#8 && t.hl == 0xE000#16 && t.regs.pc == 0x0101#16 &&
      t.totalCycles == 8) = true := by decide

/-- R147: `LD A,(HL+)`, 95_test_vectors.md. -/
theorem test_ld_a_mem_hli :
    nextHas { ((testState [0x2A#8]).setHl 0xFFFF#16) with ieReg := 0x1B#8 } (fun t =>
      t.reg .a == 0x1B#8 && t.hl == 0x0000#16 && t.regs.pc == 0x0101#16 && t.totalCycles == 8) = true := by decide

/-- R148: `LD (HL-),A`, 95_test_vectors.md. -/
theorem test_ld_mem_hld_a :
    nextHas (((testState [0x32#8]).setHl 0xC000#16).setReg .a 0x44#8) (fun t =>
      busRead 0xC000#16 t == 0x44#8 && t.hl == 0xBFFF#16 && t.regs.pc == 0x0101#16 &&
      t.totalCycles == 8) = true := by decide

/-- R149: `LD A,(HL-)`, 95_test_vectors.md. -/
theorem test_ld_a_mem_hld :
    nextHas ((testState [0x3A#8]).setHl 0x0000#16) (fun t =>
      t.reg .a == 0x00#8 && t.hl == 0xFFFF#16 && t.regs.pc == 0x0101#16 && t.totalCycles == 8) = true := by decide

/-- R161: `LD BC,0x1234`, 95_test_vectors.md. -/
theorem test_ld_rr_d16 :
    nextHas (testState [0x01#8, 0x34#8, 0x12#8]) (fun t =>
      t.reg .b == 0x12#8 && t.reg .c == 0x34#8 && t.regs.pc == 0x0103#16 && t.totalCycles == 12) = true := by decide

/-- R162: `LD (0xC100),SP`, 95_test_vectors.md. -/
theorem test_ld_mem_a16_sp :
    nextHas ((testState [0x08#8, 0x00#8, 0xC1#8]).setSp 0xDFF0#16) (fun t =>
      busRead 0xC100#16 t == 0xF0#8 && busRead 0xC101#16 t == 0xDF#8 && t.regs.pc == 0x0103#16 &&
      t.totalCycles == 20) = true := by decide

/-- R163: `LD SP,HL`, 95_test_vectors.md. -/
theorem test_ld_sp_hl :
    nextHas ((testState [0xF9#8]).setHl 0xC800#16) (fun t =>
      t.regs.sp == 0xC800#16 && t.regs.pc == 0x0101#16 && t.totalCycles == 8) = true := by decide

/-- R164: `LD HL,SP+1 at 0x00FF`, 95_test_vectors.md. -/
theorem test_ld_hl_sp_e8 :
    nextHas ((testState [0xF8#8, 0x01#8]).setSp 0x00FF#16) (fun t =>
      t.hl == 0x0100#16 && t.regs.f == 0x30#8 && t.regs.pc == 0x0102#16 && t.totalCycles == 12) = true := by decide

/-- R164: `LD HL,SP-1`, 95_test_vectors.md. -/
theorem test_ld_hl_sp_e8_again :
    nextHas ((testState [0xF8#8, 0xFF#8]).setSp 0x0000#16) (fun t =>
      t.hl == 0xFFFF#16 && t.regs.f == 0x00#8 && t.regs.pc == 0x0102#16 && t.totalCycles == 12) = true := by decide

/-- R165: `PUSH AF`, 95_test_vectors.md. -/
theorem test_push_rr :
    nextHas (((testState [0xF5#8]).setReg .a 0x9A#8).setF 0xB0#8) (fun t =>
      busRead 0xFFFD#16 t == 0x9A#8 && busRead 0xFFFC#16 t == 0xB0#8 && t.regs.sp == 0xFFFC#16 &&
      t.regs.pc == 0x0101#16 && t.totalCycles == 16) = true := by decide

/-- R166: `POP DE`, 95_test_vectors.md. -/
theorem test_pop_rr :
    nextHas ((((testState [0xD1#8]).setSp 0xC000#16).writeCell 0xC000 0x34#8).writeCell 0xC001 0x12#8) (fun t =>
      t.de == 0x1234#16 && t.regs.sp == 0xC002#16 && t.regs.pc == 0x0101#16 &&
      t.totalCycles == 12) = true := by decide

/-- R167: `POP AF`, 95_test_vectors.md. -/
theorem test_pop_af :
    nextHas ((((testState [0xF1#8]).setSp 0xC000#16).writeCell 0xC000 0xFF#8).writeCell 0xC001 0x12#8) (fun t =>
      t.reg .a == 0x12#8 && t.regs.f == 0xF0#8 && t.regs.sp == 0xC002#16 && t.regs.pc == 0x0101#16 &&
      t.totalCycles == 12) = true := by decide

/-- R186: `ADD A,0x01`, 95_test_vectors.md. -/
theorem test_add_a_d8 :
    nextHas ((testState [0xC6#8, 0x01#8]).setReg .a 0x0F#8) (fun t =>
      t.reg .a == 0x10#8 && t.regs.f == 0x20#8 && t.regs.pc == 0x0102#16 && t.totalCycles == 8) = true := by decide

/-- R184: `ADD A,B`, 95_test_vectors.md. -/
theorem test_add_a_r :
    nextHas (((testState [0x80#8]).setReg .a 0x80#8).setReg .b 0x80#8) (fun t =>
      t.reg .a == 0x00#8 && t.regs.f == 0x90#8 && t.regs.pc == 0x0101#16 && t.totalCycles == 4) = true := by decide

/-- R185: `ADD A,(HL)`, 95_test_vectors.md. -/
theorem test_add_a_mem_hl :
    nextHas ((((testState [0x86#8]).setReg .a 0x3A#8).setHl 0xC000#16).writeCell 0xC000 0xC6#8) (fun t =>
      t.reg .a == 0x00#8 && t.regs.f == 0xB0#8 && t.regs.pc == 0x0101#16 && t.totalCycles == 8) = true := by decide

/-- R187: `ADC A,C`, 95_test_vectors.md. -/
theorem test_adc_a_r :
    nextHas ((((testState [0x89#8]).setReg .a 0x0F#8).setReg .c 0x00#8).setF 0x10#8) (fun t =>
      t.reg .a == 0x10#8 && t.regs.f == 0x20#8 && t.regs.pc == 0x0101#16 && t.totalCycles == 4) = true := by decide

/-- R189: `ADC A,0x0F`, 95_test_vectors.md. -/
theorem test_adc_a_d8 :
    nextHas (((testState [0xCE#8, 0x0F#8]).setReg .a 0xF0#8).setF 0x10#8) (fun t =>
      t.reg .a == 0x00#8 && t.regs.f == 0xB0#8 && t.regs.pc == 0x0102#16 && t.totalCycles == 8) = true := by decide

/-- R190: `SUB A,A`, 95_test_vectors.md. -/
theorem test_sub_a_r :
    nextHas (((testState [0x97#8]).setReg .a 0x5C#8).setF 0x10#8) (fun t =>
      t.reg .a == 0x00#8 && t.regs.f == 0xC0#8 && t.regs.pc == 0x0101#16 && t.totalCycles == 4) = true := by decide

/-- R192: `SUB A,0x01`, 95_test_vectors.md. -/
theorem test_sub_a_d8 :
    nextHas ((testState [0xD6#8, 0x01#8]).setReg .a 0x00#8) (fun t =>
      t.reg .a == 0xFF#8 && t.regs.f == 0x70#8 && t.regs.pc == 0x0102#16 && t.totalCycles == 8) = true := by decide

/-- R193: `SBC A,A`, 95_test_vectors.md. -/
theorem test_sbc_a_r :
    nextHas (((testState [0x9F#8]).setReg .a 0x77#8).setF 0x10#8) (fun t =>
      t.reg .a == 0xFF#8 && t.regs.f == 0x70#8 && t.regs.pc == 0x0101#16 && t.totalCycles == 4) = true := by decide

/-- R195: `SBC A,0x0F`, 95_test_vectors.md. -/
theorem test_sbc_a_d8 :
    nextHas (((testState [0xDE#8, 0x0F#8]).setReg .a 0x10#8).setF 0x10#8) (fun t =>
      t.reg .a == 0x00#8 && t.regs.f == 0xE0#8 && t.regs.pc == 0x0102#16 && t.totalCycles == 8) = true := by decide

/-- R196: `AND A,B`, 95_test_vectors.md. -/
theorem test_and_a_r :
    nextHas ((((testState [0xA0#8]).setReg .a 0xF0#8).setReg .b 0x0F#8).setF 0x10#8) (fun t =>
      t.reg .a == 0x00#8 && t.regs.f == 0xA0#8 && t.regs.pc == 0x0101#16 && t.totalCycles == 4) = true := by decide

/-- R198: `AND A,0xFF`, 95_test_vectors.md. -/
theorem test_and_a_d8 :
    nextHas ((testState [0xE6#8, 0xFF#8]).setReg .a 0x5A#8) (fun t =>
      t.reg .a == 0x5A#8 && t.regs.f == 0x20#8 && t.regs.pc == 0x0102#16 && t.totalCycles == 8) = true := by decide

/-- R199: `XOR A,A`, 95_test_vectors.md. -/
theorem test_xor_a_r :
    nextHas (((testState [0xAF#8]).setReg .a 0x5A#8).setF 0xF0#8) (fun t =>
      t.reg .a == 0x00#8 && t.regs.f == 0x80#8 && t.regs.pc == 0x0101#16 && t.totalCycles == 4) = true := by decide

/-- R201: `XOR A,0x0F`, 95_test_vectors.md. -/
theorem test_xor_a_d8 :
    nextHas ((testState [0xEE#8, 0x0F#8]).setReg .a 0xF0#8) (fun t =>
      t.reg .a == 0xFF#8 && t.regs.f == 0x00#8 && t.regs.pc == 0x0102#16 && t.totalCycles == 8) = true := by decide

/-- R202: `OR A,C`, 95_test_vectors.md. -/
theorem test_or_a_r :
    nextHas ((((testState [0xB1#8]).setReg .a 0x00#8).setReg .c 0x00#8).setF 0xF0#8) (fun t =>
      t.reg .a == 0x00#8 && t.regs.f == 0x80#8 && t.regs.pc == 0x0101#16 && t.totalCycles == 4) = true := by decide

/-- R204: `OR A,0x81`, 95_test_vectors.md. -/
theorem test_or_a_d8 :
    nextHas ((testState [0xF6#8, 0x81#8]).setReg .a 0x18#8) (fun t =>
      t.reg .a == 0x99#8 && t.regs.f == 0x00#8 && t.regs.pc == 0x0102#16 && t.totalCycles == 8) = true := by decide

/-- R205: `CP A,B`, 95_test_vectors.md. -/
theorem test_cp_a_r :
    nextHas (((testState [0xB8#8]).setReg .a 0x3C#8).setReg .b 0x3C#8) (fun t =>
      t.reg .a == 0x3C#8 && t.regs.f == 0xC0#8 && t.regs.pc == 0x0101#16 && t.totalCycles == 4) = true := by decide

/-- R207: `CP A,0x2F`, 95_test_vectors.md. -/
theorem test_cp_a_d8 :
    nextHas ((testState [0xFE#8, 0x2F#8]).setReg .a 0x3C#8) (fun t =>
      t.reg .a == 0x3C#8 && t.regs.f == 0x60#8 && t.regs.pc == 0x0102#16 && t.totalCycles == 8) = true := by decide

/-- R208: `INC B`, 95_test_vectors.md. -/
theorem test_inc_r :
    nextHas (((testState [0x04#8]).setReg .b 0xFF#8).setF 0x10#8) (fun t =>
      t.reg .b == 0x00#8 && t.regs.f == 0xB0#8 && t.regs.pc == 0x0101#16 && t.totalCycles == 4) = true := by decide

/-- R209: `INC (HL)`, 95_test_vectors.md. -/
theorem test_inc_mem_hl :
    nextHas ((((testState [0x34#8]).setHl 0xC000#16).setF 0x10#8).writeCell 0xC000 0x7F#8) (fun t =>
      busRead 0xC000#16 t == 0x80#8 && t.regs.f == 0x30#8 && t.regs.pc == 0x0101#16 &&
      t.totalCycles == 12) = true := by decide

/-- R210: `DEC C`, 95_test_vectors.md. -/
theorem test_dec_r :
    nextHas (((testState [0x0D#8]).setReg .c 0x00#8).setF 0x00#8) (fun t =>
      t.reg .c == 0xFF#8 && t.regs.f == 0x60#8 && t.regs.pc == 0x0101#16 && t.totalCycles == 4) = true := by decide

/-- R211: `DEC (HL)`, 95_test_vectors.md. -/
theorem test_dec_mem_hl :
    nextHas (((testState [0x35#8]).setHl 0xFF80#16).writeCell 0xFF80 0x01#8) (fun t =>
      busRead 0xFF80#16 t == 0x00#8 && t.regs.f == 0xC0#8 && t.regs.pc == 0x0101#16 &&
      t.totalCycles == 12) = true := by decide

/-- R212: `DAA after 0x99+0x01`, 95_test_vectors.md. -/
theorem test_daa :
    nextHas (((testState [0x27#8]).setReg .a 0x9A#8).setF 0x00#8) (fun t =>
      t.reg .a == 0x00#8 && t.regs.f == 0x90#8 && t.regs.pc == 0x0101#16 && t.totalCycles == 4) = true := by decide

/-- R212: `DAA after 0x00-0x01`, 95_test_vectors.md. -/
theorem test_daa_again :
    nextHas (((testState [0x27#8]).setReg .a 0xFF#8).setF 0x70#8) (fun t =>
      t.reg .a == 0x99#8 && t.regs.f == 0x50#8 && t.regs.pc == 0x0101#16 && t.totalCycles == 4) = true := by decide

/-- R213: `CPL`, 95_test_vectors.md. -/
theorem test_cpl :
    nextHas (((testState [0x2F#8]).setReg .a 0x35#8).setF 0x90#8) (fun t =>
      t.reg .a == 0xCA#8 && t.regs.f == 0xF0#8 && t.regs.pc == 0x0101#16 && t.totalCycles == 4) = true := by decide

/-- R214: `SCF`, 95_test_vectors.md. -/
theorem test_scf :
    nextHas ((testState [0x37#8]).setF 0xE0#8) (fun t =>
      t.regs.f == 0x90#8 && t.regs.pc == 0x0101#16 && t.totalCycles == 4) = true := by decide

/-- R215: `CCF`, 95_test_vectors.md. -/
theorem test_ccf :
    nextHas ((testState [0x3F#8]).setF 0x00#8) (fun t =>
      t.regs.f == 0x10#8 && t.regs.pc == 0x0101#16 && t.totalCycles == 4) = true := by decide

/-- R232: `ADD HL,BC`, 95_test_vectors.md. -/
theorem test_add_hl_rr :
    nextHas ((((testState [0x09#8]).setHl 0x0FFF#16).setBc 0x0001#16).setF 0x80#8) (fun t =>
      t.hl == 0x1000#16 && t.regs.f == 0xA0#8 && t.regs.pc == 0x0101#16 && t.totalCycles == 8) = true := by decide

/-- R233: `INC BC`, 95_test_vectors.md. -/
theorem test_inc_rr :
    nextHas (((testState [0x03#8]).setBc 0xFFFF#16).setF 0xF0#8) (fun t =>
      t.bc == 0x0000#16 && t.regs.f == 0xF0#8 && t.regs.pc == 0x0101#16 && t.totalCycles == 8) = true := by decide

/-- R234: `DEC HL`, 95_test_vectors.md. -/
theorem test_dec_rr :
    nextHas ((testState [0x2B#8]).setHl 0x0000#16) (fun t =>
      t.hl == 0xFFFF#16 && t.regs.f == 0x00#8 && t.regs.pc == 0x0101#16 && t.totalCycles == 8) = true := by decide

/-- R235: `ADD SP,0x01`, 95_test_vectors.md. -/
theorem test_add_sp_e8 :
    nextHas (((testState [0xE8#8, 0x01#8]).setSp 0x00FF#16).setF 0xC0#8) (fun t =>
      t.regs.sp == 0x0100#16 && t.regs.f == 0x30#8 && t.regs.pc == 0x0102#16 &&
      t.totalCycles == 16) = true := by decide

/-- R235: `ADD SP,-1`, 95_test_vectors.md. -/
theorem test_add_sp_e8_again :
    nextHas ((testState [0xE8#8, 0xFF#8]).setSp 0x0001#16) (fun t =>
      t.regs.sp == 0x0000#16 && t.regs.f == 0x30#8 && t.regs.pc == 0x0102#16 &&
      t.totalCycles == 16) = true := by decide

/-- R251: `RLCA`, 95_test_vectors.md. -/
theorem test_rlca :
    nextHas (((testState [0x07#8]).setReg .a 0x80#8).setF 0xE0#8) (fun t =>
      t.reg .a == 0x01#8 && t.regs.f == 0x10#8 && t.regs.pc == 0x0101#16 && t.totalCycles == 4) = true := by decide

/-- R252: `RRCA`, 95_test_vectors.md. -/
theorem test_rrca :
    nextHas ((testState [0x0F#8]).setReg .a 0x01#8) (fun t =>
      t.reg .a == 0x80#8 && t.regs.f == 0x10#8 && t.regs.pc == 0x0101#16 && t.totalCycles == 4) = true := by decide

/-- R253: `RLA`, 95_test_vectors.md. -/
theorem test_rla :
    nextHas (((testState [0x17#8]).setReg .a 0x00#8).setF 0x10#8) (fun t =>
      t.reg .a == 0x01#8 && t.regs.f == 0x00#8 && t.regs.pc == 0x0101#16 && t.totalCycles == 4) = true := by decide

/-- R254: `RRA`, 95_test_vectors.md. -/
theorem test_rra :
    nextHas (((testState [0x1F#8]).setReg .a 0x01#8).setF 0x00#8) (fun t =>
      t.reg .a == 0x00#8 && t.regs.f == 0x10#8 && t.regs.pc == 0x0101#16 && t.totalCycles == 4) = true := by decide

/-- R256: `RLC B`, 95_test_vectors.md. -/
theorem test_rlc_r :
    nextHas ((testState [0xCB#8, 0x00#8]).setReg .b 0x85#8) (fun t =>
      t.reg .b == 0x0B#8 && t.regs.f == 0x10#8 && t.regs.pc == 0x0102#16 && t.totalCycles == 8) = true := by decide

/-- R257: `RLC (HL)`, 95_test_vectors.md. -/
theorem test_rlc_mem_hl :
    nextHas (((testState [0xCB#8, 0x06#8]).setHl 0xC000#16).writeCell 0xC000 0x80#8) (fun t =>
      busRead 0xC000#16 t == 0x01#8 && t.regs.f == 0x10#8 && t.regs.pc == 0x0102#16 &&
      t.totalCycles == 16) = true := by decide

/-- R258: `RRC C`, 95_test_vectors.md. -/
theorem test_rrc_r :
    nextHas ((testState [0xCB#8, 0x09#8]).setReg .c 0x01#8) (fun t =>
      t.reg .c == 0x80#8 && t.regs.f == 0x10#8 && t.regs.pc == 0x0102#16 && t.totalCycles == 8) = true := by decide

/-- R260: `RL D`, 95_test_vectors.md. -/
theorem test_rl_r :
    nextHas (((testState [0xCB#8, 0x12#8]).setReg .d 0x40#8).setF 0x10#8) (fun t =>
      t.reg .d == 0x81#8 && t.regs.f == 0x00#8 && t.regs.pc == 0x0102#16 && t.totalCycles == 8) = true := by decide

/-- R262: `RR E`, 95_test_vectors.md. -/
theorem test_rr_r :
    nextHas (((testState [0xCB#8, 0x1B#8]).setReg .e 0x01#8).setF 0x10#8) (fun t =>
      t.reg .e == 0x80#8 && t.regs.f == 0x10#8 && t.regs.pc == 0x0102#16 && t.totalCycles == 8) = true := by decide

/-- R264: `SLA H`, 95_test_vectors.md. -/
theorem test_sla_r :
    nextHas ((testState [0xCB#8, 0x24#8]).setReg .h 0xC0#8) (fun t =>
      t.reg .h == 0x80#8 && t.regs.f == 0x10#8 && t.regs.pc == 0x0102#16 && t.totalCycles == 8) = true := by decide

/-- R266: `SRA L`, 95_test_vectors.md. -/
theorem test_sra_r :
    nextHas ((testState [0xCB#8, 0x2D#8]).setReg .l 0x81#8) (fun t =>
      t.reg .l == 0xC0#8 && t.regs.f == 0x10#8 && t.regs.pc == 0x0102#16 && t.totalCycles == 8) = true := by decide

/-- R268: `SWAP A`, 95_test_vectors.md. -/
theorem test_swap_r :
    nextHas (((testState [0xCB#8, 0x37#8]).setReg .a 0xF1#8).setF 0xF0#8) (fun t =>
      t.reg .a == 0x1F#8 && t.regs.f == 0x00#8 && t.regs.pc == 0x0102#16 && t.totalCycles == 8) = true := by decide

/-- R269: `SWAP (HL)`, 95_test_vectors.md. -/
theorem test_swap_mem_hl :
    nextHas (((testState [0xCB#8, 0x36#8]).setHl 0xC000#16).writeCell 0xC000 0x12#8) (fun t =>
      busRead 0xC000#16 t == 0x21#8 && t.regs.f == 0x00#8 && t.regs.pc == 0x0102#16 &&
      t.totalCycles == 16) = true := by decide

/-- R270: `SRL A`, 95_test_vectors.md. -/
theorem test_srl_r :
    nextHas ((testState [0xCB#8, 0x3F#8]).setReg .a 0x81#8) (fun t =>
      t.reg .a == 0x40#8 && t.regs.f == 0x10#8 && t.regs.pc == 0x0102#16 && t.totalCycles == 8) = true := by decide

/-- R272: `BIT 0,B`, 95_test_vectors.md. -/
theorem test_bit_r :
    nextHas (((testState [0xCB#8, 0x40#8]).setReg .b 0xFE#8).setF 0x00#8) (fun t =>
      t.reg .b == 0xFE#8 && t.regs.f == 0xA0#8 && t.regs.pc == 0x0102#16 && t.totalCycles == 8) = true := by decide

/-- R273: `BIT 3,(HL)`, 95_test_vectors.md. -/
theorem test_bit_mem_hl :
    nextHas ((((testState [0xCB#8, 0x5E#8]).setHl 0xC000#16).setF 0xD0#8).writeCell 0xC000 0x08#8) (fun t =>
      t.regs.f == 0x30#8 && t.regs.pc == 0x0102#16 && t.totalCycles == 12) = true := by decide

/-- R274: `RES 0,C`, 95_test_vectors.md. -/
theorem test_res_r :
    nextHas (((testState [0xCB#8, 0x81#8]).setReg .c 0xFF#8).setF 0xF0#8) (fun t =>
      t.reg .c == 0xFE#8 && t.regs.f == 0xF0#8 && t.regs.pc == 0x0102#16 && t.totalCycles == 8) = true := by decide

/-- R275: `RES 7,(HL)`, 95_test_vectors.md. -/
theorem test_res_mem_hl :
    nextHas (((testState [0xCB#8, 0xBE#8]).setHl 0xC000#16).writeCell 0xC000 0xFF#8) (fun t =>
      busRead 0xC000#16 t == 0x7F#8 && t.regs.pc == 0x0102#16 && t.totalCycles == 16) = true := by decide

/-- R276: `SET 4,D`, 95_test_vectors.md. -/
theorem test_set_r :
    nextHas (((testState [0xCB#8, 0xE2#8]).setReg .d 0x00#8).setF 0x00#8) (fun t =>
      t.reg .d == 0x10#8 && t.regs.f == 0x00#8 && t.regs.pc == 0x0102#16 && t.totalCycles == 8) = true := by decide

/-- R277: `SET 7,(HL)`, 95_test_vectors.md. -/
theorem test_set_mem_hl :
    nextHas (((testState [0xCB#8, 0xFE#8]).setHl 0xC000#16).writeCell 0xC000 0x01#8) (fun t =>
      busRead 0xC000#16 t == 0x81#8 && t.regs.pc == 0x0102#16 && t.totalCycles == 16) = true := by decide

/-- R291: `JP 0x0150`, 95_test_vectors.md. -/
theorem test_jp_a16 :
    nextHas (testState [0xC3#8, 0x50#8, 0x01#8]) (fun t =>
      t.regs.pc == 0x0150#16 && t.totalCycles == 16) = true := by decide

/-- R292: `JP Z,0x0200`, 95_test_vectors.md. -/
theorem test_jp_cc_a16 :
    nextHas ((testState [0xCA#8, 0x00#8, 0x02#8]).setF 0x80#8) (fun t =>
      t.regs.pc == 0x0200#16 && t.totalCycles == 16) = true := by decide

/-- R292: `JP NZ,0x0200`, 95_test_vectors.md. -/
theorem test_jp_cc_a16_again :
    nextHas ((testState [0xC2#8, 0x00#8, 0x02#8]).setF 0x80#8) (fun t =>
      t.regs.pc == 0x0103#16 && t.totalCycles == 12) = true := by decide

/-- R293: `JP (HL)`, 95_test_vectors.md. -/
theorem test_jp_hl :
    nextHas ((testState [0xE9#8]).setHl 0xC000#16) (fun t =>
      t.regs.pc == 0xC000#16 && t.totalCycles == 4) = true := by decide

/-- R294: `JR -2`, 95_test_vectors.md. -/
theorem test_jr_e8 :
    nextHas (testState [0x18#8, 0xFE#8]) (fun t =>
      t.regs.pc == 0x0100#16 && t.totalCycles == 12) = true := by decide

/-- R295: `JR NZ,-2`, 95_test_vectors.md. -/
theorem test_jr_cc_e8 :
    nextHas ((testState [0x20#8, 0xFE#8]).setF 0x00#8) (fun t =>
      t.regs.pc == 0x0100#16 && t.totalCycles == 12) = true := by decide

/-- R296: `CALL 0x0200`, 95_test_vectors.md. -/
theorem test_call_a16 :
    nextHas (testState [0xCD#8, 0x00#8, 0x02#8]) (fun t =>
      t.regs.pc == 0x0200#16 && t.regs.sp == 0xFFFC#16 && busRead 0xFFFD#16 t == 0x01#8 &&
      busRead 0xFFFC#16 t == 0x03#8 && t.totalCycles == 24) = true := by decide

/-- R297: `CALL NZ,0x0200`, 95_test_vectors.md. -/
theorem test_call_cc_a16 :
    nextHas ((testState [0xC4#8, 0x00#8, 0x02#8]).setF 0x00#8) (fun t =>
      t.regs.pc == 0x0200#16 && t.regs.sp == 0xFFFC#16 && busRead 0xFFFC#16 t == 0x03#8 &&
      t.totalCycles == 24) = true := by decide

/-- R297: `CALL C,0x0200`, 95_test_vectors.md. -/
theorem test_call_cc_a16_again :
    nextHas ((testState [0xDC#8, 0x00#8, 0x02#8]).setF 0x00#8) (fun t =>
      t.regs.pc == 0x0103#16 && t.regs.sp == 0xFFFE#16 && t.totalCycles == 12) = true := by decide

/-- R298: `RET`, 95_test_vectors.md. -/
theorem test_ret :
    nextHas ((((testState [0xC9#8]).setSp 0xC000#16).writeCell 0xC000 0x03#8).writeCell 0xC001 0x01#8) (fun t =>
      t.regs.pc == 0x0103#16 && t.regs.sp == 0xC002#16 && t.totalCycles == 16) = true := by decide

/-- R299: `RET Z`, 95_test_vectors.md. -/
theorem test_ret_cc :
    nextHas (((((testState [0xC8#8]).setSp 0xC000#16).setF 0x80#8).writeCell 0xC000 0x03#8).writeCell 0xC001 0x01#8) (fun t =>
      t.regs.pc == 0x0103#16 && t.regs.sp == 0xC002#16 && t.totalCycles == 20) = true := by decide

/-- R299: `RET NZ`, 95_test_vectors.md. -/
theorem test_ret_cc_again :
    nextHas (((((testState [0xC0#8]).setSp 0xC000#16).setF 0x80#8).writeCell 0xC000 0x03#8).writeCell 0xC001 0x01#8) (fun t =>
      t.regs.pc == 0x0101#16 && t.regs.sp == 0xC000#16 && t.totalCycles == 8) = true := by decide

/-- R300: `RETI`, 95_test_vectors.md. -/
theorem test_reti :
    nextHas { ((((testState [0xD9#8]).setSp 0xC000#16).writeCell 0xC000 0x50#8).writeCell 0xC001 0x01#8) with ime := false } (fun t =>
      t.regs.pc == 0x0150#16 && t.regs.sp == 0xC002#16 && t.ime == true && t.totalCycles == 16) = true := by decide

/-- R301: `RST 0x28`, 95_test_vectors.md. -/
theorem test_rst :
    nextHas (testState [0xEF#8]) (fun t =>
      t.regs.pc == 0x0028#16 && t.regs.sp == 0xFFFC#16 && busRead 0xFFFD#16 t == 0x01#8 &&
      busRead 0xFFFC#16 t == 0x01#8 && t.totalCycles == 16) = true := by decide

/-- R320: `NOP`, 95_test_vectors.md. -/
theorem test_nop :
    nextHas (((testState [0x00#8]).setReg .a 0x12#8).setF 0xF0#8) (fun t =>
      t.regs.pc == 0x0101#16 && t.reg .a == 0x12#8 && t.regs.f == 0xF0#8 && t.regs.sp == 0xFFFE#16 &&
      t.totalCycles == 4) = true := by decide

/-- R322: `STOP`, 95_test_vectors.md. -/
theorem test_stop :
    nextHas (testState [0x10#8, 0x00#8]) (fun t =>
      t.regs.pc == 0x0102#16 && t.stopped == true && t.totalCycles == 4) = true := by decide

/-- R323: `DI`, 95_test_vectors.md. -/
theorem test_di :
    nextHas { (testState [0xF3#8]) with ime := true } (fun t =>
      t.ime == false && t.imeDelay == 0 && t.regs.pc == 0x0101#16 && t.totalCycles == 4) = true := by decide

/-- R324: `EI`, 95_test_vectors.md. -/
theorem test_ei :
    nextHas { (testState [0xFB#8]) with ime := false } (fun t =>
      t.ime == false && t.imeDelay == 1 && t.regs.pc == 0x0101#16 && t.totalCycles == 4) = true := by decide

/-- R325: `0xCB 0x37 (SWAP A)`, 95_test_vectors.md. -/
theorem test_prefix_cb :
    nextHas ((testState [0xCB#8, 0x37#8]).setReg .a 0x12#8) (fun t =>
      t.reg .a == 0x21#8 && t.regs.pc == 0x0102#16 && t.totalCycles == 8) = true := by decide

/-- R354: `dispatch bit 0, then NOP at 0x0040`, 95_test_vectors.md. -/
theorem test_take_interrupt :
    nextHas { (testState [0x00#8]) with ime := true, ieReg := 0x1F#8, ifReg := 0x1F#8 } (fun t =>
      t.regs.pc == 0x0041#16 && t.regs.sp == 0xFFFC#16 && busRead 0xFFFD#16 t == 0x01#8 &&
      busRead 0xFFFC#16 t == 0x00#8 && t.ifReg == 0x1E#8 && t.ime == false && t.totalCycles == 24) = true := by decide

/-- R354: `dispatch with SP=0x0001: high byte of PC is written to IE`, 95_test_vectors.md. -/
theorem test_take_interrupt_again :
    nextHas { ((testState [0x00#8]).setSp 0x0001#16) with ime := true, ieReg := 0x01#8, ifReg := 0x01#8 } (fun t =>
      t.regs.pc == 0x0041#16 && t.regs.sp == 0xFFFF#16 && t.ieReg == 0x00#8 && t.ifReg == 0x00#8 &&
      t.totalCycles == 24) = true := by decide

/-- R352: `dispatch lowest of IE&IF=0x12 (bit 1)`, 95_test_vectors.md. -/
theorem test_priority :
    nextHas { (testState [0x00#8]) with ime := true, ieReg := 0x1E#8, ifReg := 0x13#8 } (fun t =>
      t.regs.pc == 0x0049#16 && t.ifReg == 0x11#8 && t.ime == false && t.totalCycles == 24) = true := by decide

/-- R353: `IME=0: no dispatch`, 95_test_vectors.md. -/
theorem test_ime_off :
    nextHas { (testState [0x00#8]) with ime := false, ieReg := 0x01#8, ifReg := 0x01#8 } (fun t =>
      t.regs.pc == 0x0101#16 && t.ifReg == 0x01#8 && t.ime == false && t.totalCycles == 4) = true := by decide

/-- R351: `IE=IF=0xE0: bits 7:5 never pending`, 95_test_vectors.md. -/
theorem test_pending_mask :
    nextHas { (testState [0x00#8]) with ime := true, ieReg := 0xE0#8, ifReg := 0xE0#8 } (fun t =>
      t.regs.pc == 0x0101#16 && t.ifReg == 0xE0#8 && t.ime == true && t.totalCycles == 4) = true := by decide

/-- R194: `SBC A,(HL)` borrows through both nibbles (by hand: 0x10 - 0x0F - 1 = 0, a borrow from bit 4). -/
theorem test_sbc_a_mem_hl :
    nextHas (((((testState [0x9E#8]).setReg .a 0x10#8).setF 0x10#8).setHl 0xC000#16).writeCell 0xC000 0x0F#8)
      (fun t => t.reg .a == 0x00#8 && t.regs.f == 0xE0#8 && t.totalCycles == 8) = true := by decide

/-- R206: `CP A,(HL)` keeps A (by hand: 0x3C - 0x40 borrows out of bit 7 only). -/
theorem test_cp_a_mem_hl :
    nextHas ((((testState [0xBE#8]).setReg .a 0x3C#8).setHl 0xC000#16).writeCell 0xC000 0x40#8)
      (fun t => t.reg .a == 0x3C#8 && t.regs.f == 0x50#8 && t.totalCycles == 8) = true := by decide

/-- R263: `RR (HL)` takes Carry into bit 7 (by hand: 0x02 becomes 0x81). -/
theorem test_rr_mem_hl :
    nextHas ((((testState [0xCB#8, 0x1E#8]).setF 0x10#8).setHl 0xC000#16).writeCell 0xC000 0x02#8)
      (fun t => busRead 0xC000#16 t == 0x81#8 && t.regs.f == 0x00#8 && t.totalCycles == 16) = true := by decide

/-- R267: `SRA (HL)` keeps bit 7 (by hand: 0x81 becomes 0xC0, bit 0 to Carry). -/
theorem test_sra_mem_hl :
    nextHas (((testState [0xCB#8, 0x2E#8]).setHl 0xC000#16).writeCell 0xC000 0x81#8)
      (fun t => busRead 0xC000#16 t == 0xC0#8 && t.regs.f == 0x10#8 && t.totalCycles == 16) = true := by decide

/-- R326, R341: 0xDD is not executed; the condition is recorded with PC on it and nothing is added to the total. -/
theorem test_illegal :
    nextHas ((testState [0xDD#8]).setReg .a 0x33#8) (fun t =>
      decide (t.fault = some (.unknownOpcode 0xDD#8 0x0100#16)) && t.regs.pc == 0x0100#16 && t.reg .a == 0x33#8 &&
      t.totalCycles == 0) = true := by decide

/-- R345: after a fatal condition there is no step. -/
theorem test_no_step_after_fatal :
    step { testState [0x00#8] with fault := some .notReady } = .fault (.fatal .notReady) := rfl

/-- R322: after `STOP` there is no step. -/
theorem test_no_step_after_stop : step { testState [0x00#8] with stopped := true } = .fault .stopped := rfl

/-- R32: the write of PC that reaches 0x0100 ends the overlay (95_test_vectors.md E8). -/
theorem test_overlay_ends :
    nextHas { State.reset with regs := { Regs.reset with pc := 0x00FF#16 } } (fun t =>
      t.regs.pc == 0x0100#16 && t.bootOverlay == false) = true := by decide

/-! ### Words, written out bit by bit from the encodings (30_encoding.md, the instruction rules) -/

/-- R131: `01 ddd sss`, `LD E,A` = 01 011 111. -/
theorem test_word_ld_r_r : decode [0b01011111#8] = .ok (.ldRR .e .a, []) := by decide

/-- R161: `00 pp0 001`, `LD DE,0x1234` = 00 010 001, low byte first. -/
theorem test_word_ld_rr_d16 :
    decode [0b00010001#8, 0b00110100#8, 0b00010010#8] = .ok (.ldRrD16 .de 0x1234#16, []) := by decide

/-- R165: `11 pp0 101`, `PUSH AF` = 11 110 101. -/
theorem test_word_push : decode [0b11110101#8] = .ok (.pushRr .af, []) := by decide

/-- R107, R193: `10 ooo sss`, `SBC A,H` = 10 011 100. -/
theorem test_word_sbc : decode [0b10011100#8] = .ok (.sbcAR .h, []) := by decide

/-- R210: `00 ddd 101`, `DEC L` = 00 101 101. -/
theorem test_word_dec : decode [0b00101101#8] = .ok (.decR .l, []) := by decide

/-- R232: `00 pp1 001`, `ADD HL,SP` = 00 111 001. -/
theorem test_word_add_hl : decode [0b00111001#8] = .ok (.addHlRr .sp, []) := by decide

/-- R254: `RRA` = 00 011 111. -/
theorem test_word_rra : decode [0b00011111#8] = .ok (.rra, []) := by decide

/-- R274: 0xCB, `10 bbb sss`, `RES 5,D` = 10 101 010. -/
theorem test_word_res : decode [0b11001011#8, 0b10101010#8] = .ok (.resR 5#3 .d, []) := by decide

/-- R273: 0xCB, `01 bbb 110`, `BIT 0,(HL)` = 01 000 110. -/
theorem test_word_bit_mem : decode [0b11001011#8, 0b01000110#8] = .ok (.bitMemHl 0#3, []) := by decide

/-- R270: 0xCB, `00 111 sss`, `SRL C` = 00 111 001. -/
theorem test_word_srl : decode [0b11001011#8, 0b00111001#8] = .ok (.srlR .c, []) := by decide

/-- R295: `00 1cc 000`, `JR NC,e8` = 00 110 000. -/
theorem test_word_jr_cc : decode [0b00110000#8, 0b11111110#8] = .ok (.jrCcE8 .nc 0xFE#8, []) := by decide

/-- R297: `11 0cc 100`, `CALL Z,a16` = 11 001 100. -/
theorem test_word_call_cc :
    decode [0b11001100#8, 0b00000000#8, 0b00000010#8] = .ok (.callCcA16 .z 0x0200#16, []) := by decide

/-- R301: `11 ttt 111`, `RST 0x38` = 11 111 111. -/
theorem test_word_rst : decode [0b11111111#8] = .ok (.rst 7#3, []) := by decide

/-- R321: `HALT` = 01 110 110, in the place of `LD (HL),(HL)`. -/
theorem test_word_halt : decode [0b01110110#8] = .ok (.halt, []) := by decide

/-- R322: `STOP` = 00 010 000 with one more byte. -/
theorem test_word_stop : decode [0b00010000#8, 0b00000000#8] = .ok (.stop 0#8, []) := by decide

/-- R116: 0xED = 11 101 101 is undefined. -/
theorem test_word_undefined : decode [0b11101101#8] = .ok (.illegal .xED, []) := by decide

theorem test_truncated : decode [0xCD#8, 0x00#8] = .error (.truncated 0xCD#8) := by decide
theorem test_no_bytes : decode [] = .error .noBytes := by decide

/-- opcode_table.json's extended space: the word 0xCB37 is `SWAP A` (R325). -/
theorem test_table_word_extended : decodeTableWord 16 0xCB37 = some (.swapR .a) := by decide

/-- opcode_table.json's base space: the first byte of `LD BC,d16` is bits 7 to 0. -/
theorem test_table_word_base : decodeTableWord 24 0x123401 = some (.ldRrD16 .bc 0x1234#16) := by decide

/-- A placed instruction is the one the next step runs: `LD B,0x7E` in the boot image at reset. -/
theorem test_with_fetch_word :
    nextHas (State.reset.withFetchWord 16 0x7E06) (fun t => t.reg .b == 0x7E#8 && t.regs.pc == 2#16) = true := by
  decide

/-! ### The bus and the registers behind it (95_test_vectors.md 2.9, 2.10) -/

/-- R68. -/
theorem test_echo : busRead 0xC000#16 (busWrite 0xE000#16 0x5A#8 (testState [])) = 0x5A#8 := by decide

/-- R69: OAM is not an echo. -/
theorem test_oam_is_no_echo :
    busRead 0xFE00#16 (busWrite 0xDE00#16 0x11#8 (testState [])) = 0x00#8 ∧
    busRead 0xFE9F#16 (busWrite 0xFE9F#16 0x9F#8 (testState [])) = 0x9F#8 := by decide

/-- R70. -/
theorem test_unmapped :
    busWrite 0xFF50#16 0x01#8 (testState []) = testState [] ∧ busRead 0xFF00#16 (testState []) = 0x00#8 := by
  decide +kernel

/-- R77, R78. -/
theorem test_word_order :
    busRead 0xC0FF#16 (memWrite16 0xC0FF#16 0xBEEF#16 (testState [])) = 0xEF#8 ∧
    memRead16 0xC0FF#16 (memWrite16 0xC0FF#16 0xBEEF#16 (testState [])) = 0xBEEF#16 := by decide

/-- R403: STAT stores bits 6:3; bits 2:0 are live. -/
theorem test_stat :
    busRead 0xFF41#16 State.reset = 0x06#8 ∧
    busRead 0xFF41#16 (busWrite 0xFF41#16 0xFF#8 State.reset) = 0x7E#8 ∧
    busRead 0xFF41#16 (busWrite 0xFF45#16 0x01#8 (busWrite 0xFF41#16 0xFF#8 State.reset)) = 0x7A#8 := by decide

/-- R407: the copy from 0xFF00 reads DMA back, and IF; OAM onto itself changes nothing. -/
theorem test_oam_copy :
    busRead 0xFE46#16 (busWrite 0xFF46#16 0xFF#8 (testState [])) = 0xFF#8 ∧
    busRead 0xFE80#16 (busWrite 0xFF46#16 0xFF#8 ((testState []).writeCell 0xFF80 0x42#8)) = 0x42#8 ∧
    busRead 0xFE00#16 (busWrite 0xFF46#16 0xFE#8 ((testState []).writeCell 0xFE00 0x77#8)) = 0x77#8 := by
  decide +kernel

/-! ### The PPU (95_test_vectors.md 2.11, 2.12) -/

/-- A PPU at a point of its frame. -/
def ppuAt (ly : Byte) (mode : PpuMode) (cycles : Nat) : State :=
  { testState [] with ppu := { Ppu.reset with ly := ly, mode := mode, modeCycles := cycles } }

/-- R413 T3, R416: the end of line 143 is VBlank, requests bit 0 and delivers a frame. -/
theorem test_vblank :
    let t := ppuStep 4 (ppuAt 143#8 .hblank 200)
    t.ppu.ly = 144#8 ∧ t.ppu.mode = .vblank ∧ t.ifReg = 0x01#8 ∧ t.ppu.frames.length = 1 ∧ t.ppu.modeCycles = 0 := by
  decide

/-- R413 T4: the frame ends after line 153. -/
theorem test_frame_end :
    let t := ppuStep 4 (ppuAt 153#8 .vblank 452)
    t.ppu.ly = 0#8 ∧ t.ppu.mode = .oamScan ∧ t.ifReg = 0x00#8 := by decide

/-- R412: one advance may make two transitions. -/
theorem test_two_transitions :
    let t := ppuStep 252 (ppuAt 0#8 .oamScan 0)
    t.ppu.mode = .hblank ∧ t.ppu.modeCycles = 0 ∧ t.ppu.ly = 0#8 := by decide

/-- R415: LY reaching LYC requests bit 1 when STAT bit 6 is set. -/
theorem test_lyc :
    (ppuStep 4 (busWrite 0xFF41#16 0x40#8 (busWrite 0xFF45#16 1#8 (ppuAt 0#8 .hblank 200)))).ifReg = 0x02#8 := by
  decide

/-- Set-up S of 95_test_vectors.md 2.12: row 0 of tiles 1 and 2, the first two map entries. -/
def setUpS : State :=
  { testState [] with
    ppu := { Ppu.reset with bgp := 0xE4#8, lcdc := 0x91#8, obp0 := 0xE4#8, obp1 := 0x1B#8 },
    mem := [(0x8010, 0x3C#8), (0x8011, 0x7E#8), (0x8020, 0xFF#8), (0x9800, 0x01#8), (0x9801, 0x02#8)] }

/-- Shades of line 0. -/
def shades (s : State) (xs : List Nat) : List Nat := xs.map fun x => (bgShade 0 x s).toNat

/-- R418, R420. -/
theorem test_background : shades setUpS [0, 1, 2, 6, 7, 8, 15, 16] = [0, 2, 3, 2, 0, 1, 1, 0] := by decide

/-- R404: SCX = 3. -/
theorem test_scroll :
    shades { setUpS with ppu := { setUpS.ppu with scx := 3#8 } } [0, 3, 4, 5, 12, 13] = [3, 2, 0, 1, 1, 0] := by decide

/-- R420: the background is off, shade 0 whatever BGP. -/
theorem test_background_off :
    shades { setUpS with ppu := { setUpS.ppu with lcdc := 0x90#8, bgp := 0xFF#8 } } [0, 2, 8] = [0, 0, 0] := by decide

/-- R422: OAM entry 0 = (16, 12, 1, attr), drawn over the background. -/
def spriteLine (attr : Byte) : List Nat :=
  let s := { setUpS with mem := setUpS.mem ++ [(0xFE00, 16#8), (0xFE01, 12#8), (0xFE02, 1#8), (0xFE03, attr)] }
  (drawSprite 0 s (bgLine 0 s) (spriteAt 0 s)).take 13 |>.map BitVec.toNat

theorem test_sprite : spriteLine 0x00#8 = [0, 2, 3, 3, 3, 2, 3, 3, 3, 3, 2, 1, 1] := by decide
theorem test_sprite_priority : spriteLine 0x80#8 = [0, 2, 3, 3, 3, 3, 2, 3, 1, 1, 1, 1, 1] := by decide

/-! ### Witnesses: concrete states and operands that meet the hypotheses of the statements -/

theorem exists_of_nextHas (s : State) (p : State → Bool) (h : nextHas s p = true) :
    ∃ t, step s = .next t ∧ p t = true := by
  unfold nextHas at h
  split at h
  · exact ⟨_, by assumption, h⟩
  · cases h

/-- O1, O5: the last bit and an operand at its largest value. -/
theorem test_witness_decode_of_encode :
    (Instr.setMemHl 7#3).wf = true ∧ (Instr.ldMemA16Sp 0xFFFF#16).wf = true ∧
    ∀ hole, Instr.ldMemA16Sp 0xFFFF#16 ≠ .illegal hole := by
  refine ⟨by decide, by decide, fun hole h => by cases h⟩

/-- O2. -/
theorem test_witness_encode_of_decode : decode [0xCB#8, 0xFF#8, 0x12#8] = .ok (.setR 7#3 .a, [0x12#8]) := by decide

/-- O3: exactly enough bytes, one too few. -/
theorem test_witness_decoding_is_total :
    bytesAfter 0xCD#8 ≤ [0x00#8, 0x02#8].length ∧ [0x00#8].length < bytesAfter 0xCD#8 := by decide

/-- O4: the first and the last hole. -/
theorem test_witness_undefined_opcodes :
    decodeBytes 0xD3#8 0#8 0#8 = .illegal .xD3 ∧ decodeBytes 0xFD#8 0#8 0#8 = .illegal .xFD := by decide

/-- The invariant in a state that is not the reset state. -/
theorem test_witness_inv : Inv (testState [0x3C#8]) where
  memWf := by decide
  bootWf := by decide
  memKeys := by
    intro c h
    have hc : c = (0x100, 0x3C#8) := by simpa using (show c ∈ [((0x100 : Nat), 0x3C#8)] from h)
    exact Or.inl (by rw [hc]; decide)
  bootKeys := by intro c h; cases h
  flagsLow := by decide
  statLow := by decide
  delay := by decide
  line := by decide
  vblankLines := by decide
  modeTime := by decide
  workShape := ⟨List.length_replicate, fun row h => by rw [List.eq_of_mem_replicate h]; exact List.length_replicate⟩
  framesShape := by intro f h; cases h
  latch := by decide

/-- O9, O10, O11, O19, O20: a step that answers a next state, with no fatal condition. -/
theorem test_witness_step_keeps :
    Inv (testState [0x3C#8]) ∧ OnSchedule (testState [0x3C#8]) ∧
    ∃ t, step (testState [0x3C#8]) = .next t ∧ (t.fault == none) = true :=
  ⟨test_witness_inv, ⟨by decide, by decide⟩, exists_of_nextHas _ (fun t => t.fault == none) (by decide)⟩

/-- O11: a step after which the overlay is still on. -/
theorem test_witness_overlay_stays : ∃ t, step State.reset = .next t ∧ t.bootOverlay = true :=
  exists_of_nextHas _ (fun t => t.bootOverlay) (by decide)

/-- O19: a step that raises a fatal condition. -/
theorem test_witness_fatal_step : ∃ t, step (testState [0xFC#8]) = .next t ∧ (t.fault != none) = true :=
  exists_of_nextHas _ (fun t => t.fault != none) (by decide)

/-- O12: one state for each clause. -/
theorem test_witness_step_outcome :
    ((testState []).fault = none ∧ (testState []).stopped = false) ∧
    { testState [] with fault := some .notReady }.fault = some .notReady ∧
    { testState [] with stopped := true }.stopped = true := by decide

/-- O13: with PC at an ordinary address, and at the last one, whose operand is at 0x0000. -/
theorem test_witness_step_runs :
    (Ready (testState [0x3C#8]) ∧ Awake (testState [0x3C#8]) ∧ (testState [0x3C#8]).interruptToTake = none ∧
      decode (bytesAtPc (testState [0x3C#8])) = .ok (.incR .a, [0x00#8, 0x00#8])) ∧
    let s := { testState [] with ieReg := 0x3E#8, regs := { Regs.reset with pc := 0xFFFF#16 } }
    Ready s ∧ Awake s ∧ s.interruptToTake = none ∧ decode (bytesAtPc s) = .ok (.ldRD8 .a 0x00#8, [0x00#8]) := by
  unfold Ready Awake
  decide

/-- O13, O18: a halted CPU that wakes with IME = 0. -/
theorem test_witness_awake_from_halt :
    let s := { testState [0x3C#8] with halted := true, ieReg := 0x10#8, ifReg := 0x10#8 }
    Ready s ∧ Awake s ∧ s.pending ≠ 0#8 ∧ s.interruptToTake = none := by
  unfold Ready Awake
  decide

/-- O14. -/
theorem test_witness_advance : ∀ hole, Instr.nop ≠ .illegal hole := fun hole h => by cases h

/-- A state with interrupts 0 and 4 requested and enabled. -/
def pendingState : State := { testState [0x3C#8] with ime := true, ieReg := 0x11#8, ifReg := 0x11#8 }

/-- O15. -/
theorem test_witness_takes_interrupt :
    Ready pendingState ∧ Awake pendingState ∧ pendingState.interruptToTake = some 0 ∧
    decode (bytesAtPc (takeInterrupt 0 (wake pendingState))) = .ok (.nop, [0x00#8, 0x00#8]) := by
  unfold Ready Awake
  decide

/-- O16: the undefined opcode at PC, and at the vector of an interrupt taken in the same step. -/
theorem test_witness_undefined_step :
    (Ready (testState [0xFD#8]) ∧ Awake (testState [0xFD#8]) ∧ (testState [0xFD#8]).interruptToTake = none ∧
      busRead (wake (testState [0xFD#8])).regs.pc (wake (testState [0xFD#8])) = 0xFD#8) ∧
    let s := pendingState.writeCell 0x40 0xD3#8
    let s' := takeInterrupt 0 (wake s)
    Ready s ∧ Awake s ∧ s.interruptToTake = some 0 ∧ busRead s'.regs.pc s' = 0xD3#8 := by
  unfold Ready Awake
  decide

/-- O17. -/
theorem test_witness_not_ready :
    let s := { testState [] with cartLoaded := false }
    s.fault = none ∧ s.stopped = false ∧ s.cartLoaded = false := by decide

/-- O18: nothing pending, bits 7 to 5 notwithstanding; something pending. -/
theorem test_witness_halted :
    (let s := { testState [] with halted := true, ieReg := 0xE0#8, ifReg := 0xE0#8 }
     Ready s ∧ s.halted = true ∧ s.pending = 0#8) ∧
    (let s := { testState [] with halted := true, ieReg := 0x10#8, ifReg := 0x10#8 }
     Ready s ∧ s.halted = true ∧ s.pending ≠ 0#8) := by
  unfold Ready
  decide

/-- O20: IME set by the delay, and cleared by `DI`. -/
theorem test_witness_ime_set :
    ∃ t, step { testState [0x00#8] with imeDelay := 1 } = .next t ∧ t.ime = true :=
  exists_of_nextHas _ (fun t => t.ime) (by decide)

theorem test_witness_ime_cleared :
    ∃ t, step { testState [0xF3#8] with ime := true } = .next t ∧ (!t.ime) = true :=
  exists_of_nextHas _ (fun t => !t.ime) (by decide)

/-- O22: the lowest of two, and the last one alone. -/
theorem test_witness_priority :
    pendingState.interruptToTake = some 0 ∧ { pendingState with ifReg := 0xF0#8 }.interruptToTake = some 4 := by decide

/-- O23, O41: SP at both ends of storage. -/
theorem test_witness_push_storage :
    (testState []).mem.wf ∧
    [0x8002#16, 0xFFFF#16].all (fun sp => isStorage (sp - 1#16) && isStorage (sp - 2#16)) = true := by decide

/-- O28: a state for each of the six clauses. -/
theorem test_witness_modes :
    (ppuAt 0#8 .oamScan 80).ppu.mode = .oamScan ∧ (ppuAt 0#8 .pixelTransfer 172).ppu.mode = .pixelTransfer ∧
    ((ppuAt 143#8 .hblank 204).ppu.mode = .hblank ∧ (ppuAt 143#8 .hblank 204).ppu.ly = 143#8) ∧
    ((ppuAt 142#8 .hblank 204).ppu.mode = .hblank ∧ (ppuAt 142#8 .hblank 204).ppu.ly ≠ 143#8) ∧
    ((ppuAt 153#8 .vblank 456).ppu.mode = .vblank ∧ (ppuAt 153#8 .vblank 456).ppu.ly = 153#8) ∧
    ((ppuAt 152#8 .vblank 456).ppu.mode = .vblank ∧ (ppuAt 152#8 .vblank 456).ppu.ly ≠ 153#8) := by decide

/-- O29, O30: the last column of the last line, the last entry. -/
theorem test_witness_columns : 255 < 256 ∧ 159 < 160 ∧ 39 < 40 := by decide

/-- O31: the last entry covers line 143 (its last row, by the smaller height) and column 159. -/
theorem test_witness_sprite_pixels :
    let s := { testState [] with mem := [(0xFE9C, 152#8), (0xFE9D, 167#8)] }
    let sp := spriteAt 39 s
    39 < 40 ∧ 143 < 144 ∧ (List.replicate 160 (0#2 : Shade)).length = 160 ∧ 159 < 160 ∧ sp.y ≤ 143 + 16 ∧
    143 + 16 < sp.y + (if s.ppu.lcdc.getLsbD 2 then 16 else 8) ∧ sp.x ≤ 159 + 8 := by
  decide +kernel

/-- An empty VRAM, with `lcdc` in LCDC. -/
def emptyVram (lcdc : Byte) : State := { testState [] with ppu := { Ppu.reset with lcdc := lcdc } }

theorem emptyVram_byteAt (lcdc : Byte) (n : Nat) (hn : n < 0x2000) :
    byteAt ((0x8000 + n : Nat) : Int) (emptyVram lcdc) = 0x00#8 := by
  have hs : isStorage (BitVec.ofInt 16 ((0x8000 + n : Nat) : Int)) = true := by
    simp only [isStorage, BitVec.ofInt_natCast, BitVec.toNat_ofNat, decide_eq_true_eq]
    omega
  unfold byteAt
  rw [busRead_storage _ _ hs]
  rfl

/-- O32: the low map and unsigned tile addresses. -/
theorem test_witness_all_zero_tile :
    (emptyVram 0x91#8).ppu.lcdc.getLsbD 0 = true ∧ (emptyVram 0x91#8).ppu.lcdc.getLsbD 1 = false ∧
    MapIsAll 0x00#8 (emptyVram 0x91#8) ∧ TileIsZero 0x00#8 (emptyVram 0x91#8) := by
  refine ⟨by decide, by decide, fun k hk => ?_, fun j hj => ?_⟩
  · have h := emptyVram_byteAt 0x91#8 (0x1800 + k) (by omega)
    rw [show ((0x8000 + (0x1800 + k) : Nat) : Int) = 0x9800 + (k : Int) by omega] at h
    exact h
  · have h := emptyVram_byteAt 0x91#8 j (by omega)
    rw [show ((0x8000 + j : Nat) : Int) = 0x8000 + 16 * ((0x00#8).toNat : Int) + (j : Int) by simp] at h
    exact h

/-- O32: the high map and signed tile addresses. -/
theorem test_witness_all_zero_tile_signed :
    (emptyVram 0x89#8).ppu.lcdc.getLsbD 0 = true ∧ (emptyVram 0x89#8).ppu.lcdc.getLsbD 1 = false ∧
    MapIsAll 0x00#8 (emptyVram 0x89#8) ∧ TileIsZero 0x00#8 (emptyVram 0x89#8) := by
  refine ⟨by decide, by decide, fun k hk => ?_, fun j hj => ?_⟩
  · have h := emptyVram_byteAt 0x89#8 (0x1C00 + k) (by omega)
    rw [show ((0x8000 + (0x1C00 + k) : Nat) : Int) = 0x9C00 + (k : Int) by omega] at h
    exact h
  · have h := emptyVram_byteAt 0x89#8 (0x1000 + j) (by omega)
    rw [show ((0x8000 + (0x1000 + j) : Nat) : Int) = 0x9000 + 16 * (0x00#8).toInt + (j : Int) by simp; omega] at h
    exact h

/-- O33, O35: cells at the ends of storage, and the two names of a work RAM cell. -/
theorem test_witness_storage :
    (testState []).mem.wf ∧
    [0x8000#16, 0xFE9F#16, 0xFF80#16, 0xFFFE#16].all isStorage = true ∧
    isStorage 0xFDFF#16 = true ∧ cellOf 0xFDFF#16 = cellOf 0xDDFF#16 ∧ cellOf 0xE000#16 = cellOf 0xC000#16 := by decide

/-- O36: addresses next to what a store touches. -/
theorem test_witness_untouched :
    touches 0xC000#16 0xC001#16 = false ∧ touches 0xFF46#16 0xFEA0#16 = false ∧ touches 0xFF46#16 0xFDFF#16 = false ∧
    touches 0xFF45#16 0xFF44#16 = false ∧ touches 0xE000#16 0xDFFF#16 = false := by decide

/-- O37: the ends of the echo and of the work RAM that has none. -/
theorem test_witness_echo :
    [0xE000#16, 0xFDFF#16].all (fun a => decide (0xE000 ≤ a.toNat ∧ a.toNat ≤ 0xFDFF)) = true ∧
    [0xDE00#16, 0xDFFF#16].all (fun b => decide (0xDE00 ≤ b.toNat ∧ b.toNat ≤ 0xDFFF)) = true := by decide

/-- O38, O39, O40: the ends of every range. -/
theorem test_witness_ranges :
    (0x7FFF#16).toNat < 0x8000 ∧ (0x00FF#16).toNat < 0x100 ∧ 0x100 ≤ (0x0100#16).toNat ∧
    0x8000 ≤ (0x8000#16).toNat ∧ ([] : List Byte).length ≤ (0x7FFF#16).toNat ∧
    [0xFEA0#16, 0xFEFF#16, 0xFF00#16, 0xFF0E#16, 0xFF10#16, 0xFF3F#16, 0xFF4C#16, 0xFF7F#16].all (fun a =>
      decide ((0xFEA0 ≤ a.toNat ∧ a.toNat ≤ 0xFEFF) ∨ (0xFF00 ≤ a.toNat ∧ a.toNat ≤ 0xFF0E) ∨
        (0xFF10 ≤ a.toNat ∧ a.toNat ≤ 0xFF3F) ∨ (0xFF4C ≤ a.toNat ∧ a.toNat ≤ 0xFF7F))) = true := by decide

/-- O51: the largest operands, and the smallest. -/
theorem test_witness_daa :
    99 < 100 ∧ ((testState []).setReg .a 0x99#8).regs.a = bcd 99 ∧ ((testState []).setReg .a 0x00#8).regs.a = bcd 0 := by
  decide

/-- O55. -/
theorem test_witness_set_then_test :
    (testState []).mem.wf ∧ isStorage ((testState []).setHl 0xFE9F#16).hl = true := by decide

/-- O58. -/
theorem test_witness_unwritten : Place.flagC ∉ written (.incR .a) ∧ Place.reg .h ∉ written (.popRr .de) := by decide

/-- O59: the bytes on both sides of a pushed word. -/
theorem test_witness_not_stored :
    [0xFFFE#16, 0xFFFB#16].all (fun b =>
      (stores (.pushRr .bc) (testState [])).all fun a => !touches a b) = true := by decide

end Sys2Proof.Tests
end

section
/-! SUPPORT. Proofs of the statements about the state: registers, flags, reset, the advance, the invariant, the launch
parameters and IME. What an instruction can do (`exec_effect`) and what a step can do (`runningStep_cases`) are each said
once; `KeptByPieces.step` carries a property of states from the pieces of a step to the step. -/

namespace Sys2Proof.Machine

/-! ### Registers, pairs and flags (10_state.md R20-R24) -/

@[simp] theorem word_hi_lo (v : Word) : word (hi v) (lo v) = v := by
  unfold word hi lo
  ext i h
  simp only [BitVec.getElem_append, BitVec.getElem_extractLsb']
  split
  · simp [BitVec.getLsbD_eq_getElem h]
  · simp [show 8 + (i - 8) = i by omega, BitVec.getLsbD_eq_getElem h]

theorem word_and (a b c d : Byte) : word a b &&& word c d = word (a &&& c) (b &&& d) := BitVec.and_append

/-- Settles O42: a pair is the word of its halves, and F is masked on the write and on the read of AF. -/
theorem registersAndPairs : Obligations.RegistersAndPairs := by
  intro r r' b v s
  have hregs : { s.setReg r b with regs := s.regs } = s := by cases r <;> rfl
  have haf : (s.setAf v).af = v &&& 0xFFF0#16 := calc
    (s.setAf v).af = word (hi v) (lo v &&& 0xF0#8 &&& 0xF0#8) := rfl
    _ = word (hi v &&& 0xFF#8) (lo v &&& 0xF0#8) := by
      rw [BitVec.and_assoc, show (0xFF#8 : Byte) = BitVec.allOnes 8 from rfl, BitVec.and_allOnes]; rfl
    _ = word (hi v) (lo v) &&& word 0xFF#8 0xF0#8 := (word_and ..).symm
    _ = v &&& 0xFFF0#16 := by rw [word_hi_lo]; rfl
  have hread : (s.setReg r b).reg r' = if r' = r then b else s.reg r' := by
    split
    case isTrue h => rw [h, State.reg_setReg_self]
    case isFalse h => exact State.reg_setReg_ne r r' b s h
  exact ⟨hread, hregs, State.setReg_f r b s, State.setReg_sp r b s, State.setReg_pc r b s, rfl, rfl, rfl, rfl, rfl,
    rfl, rfl, rfl, rfl, rfl, rfl, rfl, rfl, rfl, rfl, rfl, word_hi_lo v, word_hi_lo v, word_hi_lo v, haf⟩

/-- The bits of packed flags add up: no two of them meet. -/
theorem packFlags_masked_eq_flagsByte (z n h c : Bool) : packFlags z n h c &&& 0xF0#8 = flagsByte z n h c := by
  cases z <;> cases n <;> cases h <;> cases c <;> rfl

/-- Reading F masks none of its bits 7 to 4. -/
theorem State.f_getLsbD (s : State) (k : Nat) (h4 : 4 ≤ k) (h8 : k < 8) : s.f.getLsbD k = s.regs.f.getLsbD k := by
  have : (0xF0#8).getLsbD k = true := by interval_cases k <;> rfl
  rw [State.f, BitVec.getLsbD_and, this, Bool.and_true]

/-- Settles O43: the mask 0xF0 keeps the four flag bits and clears the rest. -/
theorem flagLayout : Obligations.FlagLayout := by
  intro v z n h c s
  have hlow : s.f &&& 0x0F#8 = 0#8 := by rw [State.f, BitVec.and_assoc]; exact BitVec.and_zero
  have hset : s.setFlags z n h c = withF (flagsByte z n h c) s := by
    rw [State.setFlags, State.setF, packFlags_masked_eq_flagsByte, withF]
  have hsum : flagsByte z n h c = z.toNat * 128 + n.toNat * 64 + h.toNat * 32 + c.toNat * 16 := by
    cases z <;> cases n <;> cases h <;> cases c <;> rfl
  exact ⟨rfl, rfl, hlow, (s.f_getLsbD 7 (by omega) (by omega)).symm, (s.f_getLsbD 6 (by omega) (by omega)).symm,
    (s.f_getLsbD 5 (by omega) (by omega)).symm, (s.f_getLsbD 4 (by omega) (by omega)).symm, hset, hsum⟩

/-! ### Reset (10_state.md R40) -/

theorem blankFrame_eq : blankFrame = List.replicate 144 (List.replicate 160 0#2) := by
  simp only [blankFrame, Config.screenHeight, Config.screenWidth]

theorem reset_work : State.reset.ppu.work = List.replicate 144 (List.replicate 160 0#2) := by
  rw [State.reset, Ppu.reset, blankFrame_eq]

theorem isFrame_blankFrame : isFrame blankFrame := by
  rw [blankFrame_eq]
  exact ⟨List.length_replicate, fun row h => by rw [List.eq_of_mem_replicate h, List.length_replicate]⟩

/-- Settles O7: every field by its value in `State.reset`, storage through the cells, of which there are none. -/
theorem resetState : Obligations.ResetState := by
  refine ⟨rfl, rfl, rfl, rfl, rfl, rfl, rfl, rfl, rfl, fun r hr => ?_, rfl, by decide, rfl, rfl,
    reset_work, rfl, fun a h => ?_, rfl⟩
  · cases r with
    | stat => exact absurd rfl hr
    | _ => rfl
  · rw [busRead_storage a _ h]; rfl

theorem reset_inv : Inv State.reset where
  memWf := ⟨List.Pairwise.nil, nofun⟩
  bootWf := ⟨List.Pairwise.nil, nofun⟩
  memKeys := nofun
  bootKeys := nofun
  flagsLow := rfl
  statLow := rfl
  delay := Nat.zero_le 2
  line := by decide
  vblankLines := by decide
  modeTime := by decide
  workShape := isFrame_blankFrame
  framesShape := nofun
  latch := by decide

/-- Settles O8. -/
theorem resetInv : Obligations.ResetInv := ⟨reset_inv, by unfold OnSchedule; decide⟩

/-! ### The advance (10_state.md R25-R27) -/

theorem State.setPc_eq_jumpedTo (v : Word) (s : State) : s.setPc v = jumpedTo v s := by
  unfold State.setPc jumpedTo
  by_cases h : v = 0x0100#16 <;> simp [h]

theorem size_bounds (i : Instr) (h : ∀ hole, i ≠ .illegal hole) : 1 ≤ size i ∧ size i ≤ 3 := by
  cases i with
  | illegal hole => exact absurd rfl (h hole)
  | _ => simp [size]

/-- Settles O14: a defined instruction has a length of 1 to 3, so its advance is one write of PC. -/
theorem advanceMovesPastTheInstruction : Obligations.AdvanceMovesPastTheInstruction := by
  intro i s
  refine ⟨fun h => ?_, fun hole => rfl⟩
  have hsize := size_bounds i h
  refine ⟨?_, hsize⟩
  rw [advance, if_neg (by omega), State.setPc_eq_jumpedTo]

/-! ### What an instruction can do -/

/-- `Updates s t`: `t` comes from `s` by register writes, PC writes, stores and changes of `halted`, `stopped` and
`fault`. IME and its delay, the launch parameters and the devices are out of its reach. -/
inductive Updates (s : State) : State → Prop
  | refl : Updates s s
  | setReg {t : State} (ht : Updates s t) (r : Reg8) (v : Byte) : Updates s (t.setReg r v)
  | setF {t : State} (ht : Updates s t) (v : Byte) : Updates s (t.setF v)
  | setSp {t : State} (ht : Updates s t) (v : Word) : Updates s (t.setSp v)
  | setPc {t : State} (ht : Updates s t) (v : Word) : Updates s (t.setPc v)
  | store {t : State} (ht : Updates s t) (a : Word) (v : Byte) : Updates s (busWrite a v t)
  | control {t : State} (ht : Updates s t) (hlt stp : Bool) (c : Option FatalCondition) :
      Updates s { t with halted := hlt, stopped := stp, fault := c }

namespace Updates

variable {s t : State}

theorem setFlags (ht : Updates s t) (z n h c : Bool) : Updates s (t.setFlags z n h c) := ht.setF _

theorem setBc (ht : Updates s t) (v : Word) : Updates s (t.setBc v) := (ht.setReg .b (hi v)).setReg .c (lo v)

theorem setDe (ht : Updates s t) (v : Word) : Updates s (t.setDe v) := (ht.setReg .d (hi v)).setReg .e (lo v)

theorem setHl (ht : Updates s t) (v : Word) : Updates s (t.setHl v) := (ht.setReg .h (hi v)).setReg .l (lo v)

theorem setAf (ht : Updates s t) (v : Word) : Updates s (t.setAf v) := (ht.setReg .a (hi v)).setF (lo v)

theorem setPair (ht : Updates s t) (rr : Pair) (v : Word) : Updates s (t.setPair rr v) :=
  match rr with
  | .bc => ht.setBc v
  | .de => ht.setDe v
  | .hl => ht.setHl v
  | .sp => ht.setSp v

theorem setStackPair (ht : Updates s t) (rr : StackPair) (v : Word) : Updates s (t.setStackPair rr v) :=
  match rr with
  | .bc => ht.setBc v
  | .de => ht.setDe v
  | .hl => ht.setHl v
  | .af => ht.setAf v

theorem accumulate (op : AluOp) (x : Byte) (s : State) : Updates s (accumulate op x s) := by
  obtain ⟨a, z, n, h, c, heq, -⟩ := accumulate_frame op x s
  rw [heq]
  exact (refl.setReg .a a).setFlags z n h c

theorem rotateAcc (op : RotOp) (s : State) : Updates s (rotateAcc op s) := (refl.setReg ..).setFlags ..

theorem rotateReg (op : RotOp) (r : Reg8) (s : State) : Updates s (rotateReg op r s) := (refl.setReg ..).setFlags ..

theorem rotateMemHl (op : RotOp) (s : State) : Updates s (rotateMemHl op s) := (refl.store ..).setFlags ..

theorem testBit (b : BitVec 3) (v : Byte) (s : State) : Updates s (testBit b v s) := refl.setFlags ..

theorem push16 (ht : Updates s t) (v : Word) : Updates s (push16 v t) := by
  rw [push16_eq]
  exact ((ht.store ..).store ..).setSp _

theorem popState (ht : Updates s t) : Updates s (popState t) := ht.setSp _

theorem callTo (target : Word) (s : State) : Updates s (callTo target s) := (refl.push16 _).setPc _

theorem returnTo (s : State) : Updates s (returnTo s) := refl.popState.setPc _

theorem transferIf (cc : Cond) {taken : State → State} (ht : Updates s (taken s)) :
    Updates s (transferIf cc taken s) := by
  unfold Machine.transferIf
  split
  · exact ht
  · exact refl

theorem advance (i : Instr) (s : State) : Updates s (advance i s) := by
  unfold Machine.advance
  split
  · exact refl
  · exact refl.setPc _

theorem wake (s : State) : Updates s (wake s) := refl.control false s.stopped s.fault

theorem raiseFatal (c : FatalCondition) (s : State) : Updates s (raiseFatal c s) :=
  refl.control s.halted s.stopped (some c)

end Updates

/-- What a completed instruction has done: `DI`, `EI` and `RETI` write IME or its delay, every other instruction only
updates the rest of the CPU and stores (10_state.md R28, R41). -/
def Effect (i : Instr) (s t : State) : Prop :=
  match i with
  | .di => t = { s with ime := false, imeDelay := 0 }
  | .ei => t = { s with imeDelay := if s.imeDelay = 0 then 2 else s.imeDelay }
  | .reti => t = returnFromInterrupt s
  | _ => Updates s t

/-- The extended space: rotates, shifts and bit operations. -/
theorem execPrefixCb_updates (op2 : Byte) (s : State) : ∃ t, execPrefixCb op2 s = .next t ∧ Updates s t := by
  unfold execPrefixCb
  split
  iterate 8 exact ⟨_, rfl, .rotateReg ..⟩
  iterate 8 exact ⟨_, rfl, .rotateMemHl ..⟩
  iterate 2 exact ⟨_, rfl, .testBit ..⟩
  · exact ⟨_, rfl, Updates.refl.setReg ..⟩
  · exact ⟨_, rfl, Updates.refl.store ..⟩
  · exact ⟨_, rfl, Updates.refl.setReg ..⟩
  · exact ⟨_, rfl, Updates.refl.store ..⟩
  · exact ⟨_, rfl, .refl⟩

/-- Every instruction completes, with its effect. -/
theorem exec_effect (i : Instr) (s : State) : ∃ t, exec i s = .next t ∧ Effect i s t :=
  match i with
  | .di | .ei | .reti => ⟨_, rfl, rfl⟩
  | .nop => ⟨_, rfl, .refl⟩
  | .halt | .stop _ | .illegal _ => ⟨_, rfl, Updates.refl.control ..⟩
  | .prefixCb op2 => execPrefixCb_updates op2 s
  -- loads and stores
  | .ldRrD16 .. | .incRr _ | .decRr _ => ⟨_, rfl, Updates.refl.setPair ..⟩
  | .ldRD8 .. | .ldRR .. | .ldRMemHl _ | .ldAMemBc | .ldAMemDe | .ldAMemA16 _ | .ldhAMemA8 _ | .ldAMemC | .resR ..
  | .setR .. => ⟨_, rfl, Updates.refl.setReg ..⟩
  | .ldMemBcA | .ldMemDeA | .ldMemHlD8 _ | .ldMemHlR _ | .ldMemA16A _ | .ldhMemA8A _ | .ldMemCA | .resMemHl _
  | .setMemHl _ => ⟨_, rfl, Updates.refl.store ..⟩
  | .ldMemA16Sp _ => ⟨_, rfl, (Updates.refl.store ..).store ..⟩
  | .ldMemHliA | .ldMemHldA => ⟨_, rfl, (Updates.refl.store ..).setHl _⟩
  | .ldAMemHli | .ldAMemHld => ⟨_, rfl, (Updates.refl.setReg ..).setHl _⟩
  | .ldSpHl => ⟨_, rfl, Updates.refl.setSp _⟩
  | .pushRr _ => ⟨_, rfl, Updates.refl.push16 _⟩
  | .popRr _ => ⟨_, rfl, Updates.refl.popState.setStackPair ..⟩
  | .popAf => ⟨_, rfl, Updates.refl.popState.setAf _⟩
  -- arithmetic
  | .addAR _ | .addAMemHl | .addAD8 _ | .adcAR _ | .adcAMemHl | .adcAD8 _ | .subAR _ | .subAMemHl | .subAD8 _
  | .sbcAR _ | .sbcAMemHl | .sbcAD8 _ | .andAR _ | .andAMemHl | .andAD8 _ | .xorAR _ | .xorAMemHl | .xorAD8 _
  | .orAR _ | .orAMemHl | .orAD8 _ | .cpAR _ | .cpAMemHl | .cpAD8 _ => ⟨_, rfl, .accumulate ..⟩
  | .incR _ | .decR _ | .daa | .cpl => ⟨_, rfl, (Updates.refl.setReg ..).setFlags ..⟩
  | .incMemHl | .decMemHl => ⟨_, rfl, (Updates.refl.store ..).setFlags ..⟩
  | .scf | .ccf => ⟨_, rfl, Updates.refl.setFlags ..⟩
  | .addHlRr _ | .ldHlSpE8 _ => ⟨_, rfl, (Updates.refl.setHl _).setFlags ..⟩
  | .addSpE8 _ => ⟨_, rfl, (Updates.refl.setSp _).setFlags ..⟩
  -- rotates, shifts and bits
  | .rlca | .rrca | .rla | .rra => ⟨_, rfl, .rotateAcc ..⟩
  | .rlcR _ | .rrcR _ | .rlR _ | .rrR _ | .slaR _ | .sraR _ | .swapR _ | .srlR _ => ⟨_, rfl, .rotateReg ..⟩
  | .rlcMemHl | .rrcMemHl | .rlMemHl | .rrMemHl | .slaMemHl | .sraMemHl | .swapMemHl | .srlMemHl =>
    ⟨_, rfl, .rotateMemHl ..⟩
  | .bitR .. | .bitMemHl _ => ⟨_, rfl, .testBit ..⟩
  -- control transfers
  | .jpA16 _ | .jpHl | .jrE8 _ => ⟨_, rfl, Updates.refl.setPc _⟩
  | .jpCcA16 .. | .jrCcE8 .. => ⟨_, rfl, .transferIf _ (Updates.refl.setPc _)⟩
  | .callA16 _ | .rst _ => ⟨_, rfl, .callTo ..⟩
  | .callCcA16 .. => ⟨_, rfl, .transferIf _ (.callTo ..)⟩
  | .ret => ⟨_, rfl, .returnTo _⟩
  | .retCc _ => ⟨_, rfl, .transferIf _ (.returnTo _)⟩

/-! ### What a step can do -/

/-- Running one instruction: it completes with its effect; then the step ends there if a fatal condition was raised, and
retires if not (30_encoding.md R120, 60_exceptions.md R341). -/
theorem runInstr_cases {c0 : Nat} {s t : State} (h : runInstr c0 s = .next t) :
    ∃ u, exec (fetch s) (advance (fetch s) s) = .next u ∧ Effect (fetch s) (advance (fetch s) s) u ∧
      ((u.fault.isSome = true ∧ t = u) ∨
        (u.fault.isSome = false ∧ t = retire (c0 + cycles (fetch s) (advance (fetch s) s)) u)) := by
  obtain ⟨u, hu, heff⟩ := exec_effect (fetch s) (advance (fetch s) s)
  refine ⟨u, hu, heff, ?_⟩
  simp only [runInstr, hu, Host.Outcome.next.injEq] at h
  split at h
  case isTrue hf => exact .inl ⟨hf, h.symm⟩
  case isFalse hf => exact .inr ⟨Bool.eq_false_of_not_eq_true hf, h.symm⟩

/-- A running step that answers a next state raised `NotReady`, idled, dispatched and ran, or ran (30_encoding.md R120
steps 2 to 9). -/
theorem runningStep_cases {s t : State} (h : runningStep s = .next t) :
    (s.cartLoaded = false ∧ t = raiseFatal .notReady s) ∨
      (s.halted = true ∧ s.pending = 0#8 ∧ t = retire idleCycles s) ∨
      (Awake s ∧ ∃ n, s.interruptToTake = some n ∧ runInstr dispatchCycles (takeInterrupt n (wake s)) = .next t) ∨
      (Awake s ∧ s.interruptToTake = none ∧ runInstr 0 (wake s) = .next t) := by
  unfold runningStep at h
  split at h
  case isTrue hcart => exact .inl ⟨hcart, (Host.Outcome.next.inj h).symm⟩
  split at h
  case isTrue hidle => exact .inr (.inl ⟨hidle.1, hidle.2, (Host.Outcome.next.inj h).symm⟩)
  case isFalse hidle =>
    have hawake : Awake s := fun hh hp => hidle ⟨hh, hp⟩
    have hwake : (wake s).interruptToTake = s.interruptToTake := rfl
    unfold dispatchAndRun at h
    rw [hwake] at h
    split at h
    case h_1 n hn => exact .inr (.inr (.inl ⟨hawake, n, hn, h⟩))
    case h_2 hn => exact .inr (.inr (.inr ⟨hawake, hn, h⟩))

/-- A step answers a next state only in a machine with no fatal condition that is not stopped (30_encoding.md R120
step 1). -/
theorem step_eq_next {s t : State} (h : step s = .next t) :
    s.fault = none ∧ s.stopped = false ∧ runningStep s = .next t := by
  unfold step systemStep at h
  split at h
  · cases h
  case h_2 hfault =>
    split at h
    · cases h
    case isFalse hstopped => exact ⟨hfault, Bool.eq_false_of_not_eq_true hstopped, h⟩

/-- What every piece of a step keeps: the updates of the CPU and the stores of an instruction; a change of IME, IF and
the delay of `EI`, which stays within 0 to 2 or does not grow; the advance of the PPU with the cycle total. -/
structure KeptByPieces (P : State → Prop) : Prop where
  setReg : ∀ (s : State) (r : Reg8) (v : Byte), P s → P (s.setReg r v)
  setF : ∀ (s : State) (v : Byte), P s → P (s.setF v)
  setSp : ∀ (s : State) (v : Word), P s → P (s.setSp v)
  setPc : ∀ (s : State) (v : Word), P s → P (s.setPc v)
  store : ∀ (s : State) (a : Word) (v : Byte), P s → P (busWrite a v s)
  control : ∀ (s : State) (hlt stp : Bool) (c : Option FatalCondition), P s →
    P { s with halted := hlt, stopped := stp, fault := c }
  interrupts : ∀ (s : State) (b : Bool) (n : Nat) (f : Byte), n ≤ max 2 s.imeDelay → P s →
    P { s with ime := b, imeDelay := n, ifReg := f }
  ppu : ∀ (s : State) (c total : Nat), P s → P { ppuStep c s with totalCycles := total }

namespace KeptByPieces

variable {P : State → Prop} (hP : KeptByPieces P) {s t : State}
include hP

theorem updates (h : Updates s t) (hs : P s) : P t := by
  induction h with
  | refl => exact hs
  | setReg _ r v ih => exact hP.setReg _ r v ih
  | setF _ v ih => exact hP.setF _ v ih
  | setSp _ v ih => exact hP.setSp _ v ih
  | setPc _ v ih => exact hP.setPc _ v ih
  | store _ a v ih => exact hP.store _ a v ih
  | control _ hlt stp c ih => exact hP.control _ hlt stp c ih

theorem effect {i : Instr} (h : Effect i s t) (hs : P s) : P t := by
  unfold Effect at h
  split at h
  · rw [h]; exact hP.interrupts s false 0 s.ifReg (by omega) hs
  · rw [h]; exact hP.interrupts s s.ime _ s.ifReg (by split <;> omega) hs
  · rw [h]; exact hP.interrupts _ true 0 _ (by omega) (hP.updates (Updates.refl.popState.setPc _) hs)
  · exact hP.updates h hs

theorem takeInterrupt (n : Nat) (hs : P s) : P (takeInterrupt n s) :=
  hP.updates ((Updates.refl.push16 _).setPc _) (hP.interrupts s false 0 _ (by omega) hs)

theorem retire (c : Nat) (hs : P s) : P (retire c s) := by
  refine hP.ppu _ c _ ?_
  obtain ⟨b, n, htick, hn, -⟩ := tickIme_frame s
  rw [htick]
  exact hP.interrupts s b n s.ifReg (by omega) hs

theorem runInstr {c0 : Nat} (h : runInstr c0 s = .next t) (hs : P s) : P t := by
  obtain ⟨u, -, heff, ht⟩ := runInstr_cases h
  have hu : P u := hP.effect heff (hP.updates (.advance ..) hs)
  rcases ht with ⟨-, rfl⟩ | ⟨-, rfl⟩
  · exact hu
  · exact hP.retire _ hu

theorem step (h : step s = .next t) (hs : P s) : P t := by
  have hwake : P (wake s) := hP.updates (.wake s) hs
  obtain ⟨-, -, hstep⟩ := step_eq_next h
  rcases runningStep_cases hstep with ⟨-, rfl⟩ | ⟨-, -, rfl⟩ | ⟨-, n, -, hrun⟩ | ⟨-, -, hrun⟩
  · exact hP.updates (.raiseFatal ..) hs
  · exact hP.retire idleCycles hs
  · exact hP.runInstr hrun (hP.takeInterrupt n hwake)
  · exact hP.runInstr hrun hwake

end KeptByPieces

/-! ### Stores and the cells -/

/-- What a write of an OAM cell keeps, a write to a PPU register keeps. -/
theorem ppuWrite_mem_induction (P : Memory → Prop) (r : PpuReg) (v : Byte) (s : State)
    (hw : ∀ m k w, P m → 0xFE00 ≤ k → k < 0xFEA0 → P (m.write k w)) (h0 : P s.mem) : P (ppuWrite r v s).mem := by
  cases r with
  | dma => exact oamCopy_mem_induction P v { s with ppu := s.ppu.writeReg .dma v } hw h0
  | _ => exact h0

/-- A store writes only cells that may exist, and none of CART (20_memory.md R61, R64): what such writes keep, it
keeps. -/
theorem busWrite_mem_induction (P : Memory → Prop) (a : Word) (v : Byte) (s : State)
    (hw : ∀ m k w, P m → isCellKey k → 0x8000 ≤ k → P (m.write k w)) (h0 : P s.mem) : P (busWrite a v s).mem := by
  rcases region_cases s.bootOverlay a with ⟨-, -, hr⟩ | ⟨-, -, hr⟩ | ⟨hlo, hhi, hr⟩ | ⟨hlo, hhi, hr⟩ | ⟨hlo, hhi, hr⟩ |
    ⟨hlo, hhi, hr⟩ | ⟨hlo, hhi, hr⟩ | ⟨-, -, hr⟩ | ⟨-, -, hr⟩ | ⟨-, -, hr⟩ | ⟨-, -, hr⟩ | ⟨-, -, hr⟩ | ⟨hlo, hhi, hr⟩ |
    ⟨-, hr⟩ <;> simp only [busWrite, hr]
  -- boot image, ROM
  iterate 2 exact h0
  -- VRAM, ERAM, WRAM
  iterate 3 exact hw _ _ _ h0 (.inl (by omega)) (by omega)
  -- echo
  · exact hw _ _ _ h0 (.inl (by unfold echoKey; omega)) (by unfold echoKey; omega)
  -- OAM
  · exact hw _ _ _ h0 (.inr (.inl ⟨hlo, hhi⟩)) (by omega)
  -- unmapped, IF, unmapped
  iterate 3 exact h0
  -- PPU registers
  · exact ppuWrite_mem_induction P _ v s (fun m k w hm hlo hhi => hw m k w hm (.inr (.inl ⟨hlo, hhi⟩)) (by omega)) h0
  -- unmapped
  · exact h0
  -- HRAM
  · exact hw _ _ _ h0 (.inr (.inr ⟨hlo, hhi⟩)) (by omega)
  -- IE
  · exact h0

/-- Cells in canonical form, at keys that may have cells. -/
def CellsOk (m : Memory) : Prop := m.wf ∧ ∀ c ∈ m, isCellKey c.1

theorem CellsOk.write {m : Memory} (h : CellsOk m) {k : Nat} (hk : isCellKey k) (v : Byte) : CellsOk (m.write k v) := by
  refine ⟨Memory.wf_write k v m h.1, fun c hc => ?_⟩
  rcases Memory.mem_write k v m c hc with hc | rfl
  · exact h.2 c hc
  · exact hk

theorem CellsOk.busWrite {s : State} (h : CellsOk s.mem) (a : Word) (v : Byte) : CellsOk (busWrite a v s).mem :=
  busWrite_mem_induction CellsOk a v s (fun _ _ w hm hk _ => hm.write hk w) h

/-- No store reaches CART (20_memory.md R64). -/
theorem busWrite_read_rom (a : Word) (v : Byte) (s : State) {k : Nat} (hk : k < 0x8000) :
    (busWrite a v s).mem.read k = s.mem.read k :=
  busWrite_mem_induction (fun m => m.read k = s.mem.read k) a v s
    (fun m j w hm _ hj => (Memory.read_write_ne j k w m (by omega)).trans hm) rfl

/-! ### The PPU -/

theorem length_drawSpritePixel (sp : Sprite) (ly : Nat) (s : State) (pix : List Shade) (px : Nat) :
    (drawSpritePixel sp ly s pix px).length = pix.length := by
  unfold drawSpritePixel
  dsimp only
  split_ifs <;> simp

theorem length_drawSprite (ly : Nat) (s : State) (pix : List Shade) (sp : Sprite) :
    (drawSprite ly s pix sp).length = pix.length :=
  List.foldlRecOn (motive := fun q => q.length = pix.length) _ _ rfl fun q hq px _ =>
    (length_drawSpritePixel sp ly s q px).trans hq

/-- A rendered line has 160 shades: sprites overwrite shades of the background line (61_ppu.md R420-R422). -/
theorem length_linePixels (ly : Nat) (s : State) : (linePixels ly s).length = 160 := by
  have hbg : (bgLine ly s).length = 160 := by simp [bgLine, Config.screenWidth]
  unfold linePixels
  split
  · exact List.foldlRecOn (motive := fun q => q.length = 160) _ _ hbg fun q hq sp _ =>
      (length_drawSprite ly s q sp).trans hq
  · exact hbg

theorem isFrame_set {f : Frame} (h : isFrame f) (n : Nat) {row : List Shade} (hrow : row.length = 160) :
    isFrame (f.set n row) := by
  refine ⟨List.length_set.trans h.1, fun r hr => ?_⟩
  rcases List.mem_or_eq_of_mem_set hr with hr | rfl
  · exact h.2 r hr
  · exact hrow

/-- `SetLY` writes LY, and may set a bit of IF. -/
theorem setLy_eq (v : Byte) (s : State) : ∃ f, setLy v s = { s with ppu := { s.ppu with ly := v }, ifReg := f } := by
  unfold setLy
  dsimp only
  split
  · exact ⟨_, requestStat_eq ..⟩
  · exact ⟨s.ifReg, rfl⟩

/-- The PPU after the transition out of its mode (61_ppu.md R413). -/
def ppuAfterMode (s : State) : Ppu :=
  match s.ppu.mode with
  | .oamScan => { s.ppu with mode := .pixelTransfer }
  | .pixelTransfer => { s.ppu with work := (renderLine s).ppu.work, mode := .hblank }
  | .hblank =>
    if s.ppu.ly = 143#8 then { s.ppu with ly := 144#8, mode := .vblank, frames := s.ppu.frames ++ [s.ppu.work] }
    else { s.ppu with ly := s.ppu.ly + 1#8, mode := .oamScan }
  | .vblank =>
    if s.ppu.ly = 153#8 then { s.ppu with ly := 0#8, mode := .oamScan } else { s.ppu with ly := s.ppu.ly + 1#8 }

/-- A transition changes the PPU, and sets bits of IF. -/
theorem endMode_eq (s : State) : ∃ f, endMode s = { s with ppu := ppuAfterMode s, ifReg := f } := by
  unfold endMode ppuAfterMode
  cases s.ppu.mode with
  | oamScan => exact ⟨s.ifReg, rfl⟩
  | pixelTransfer => exact ⟨_, requestStat_eq ..⟩
  | hblank =>
    dsimp only [endHblank]
    split
    · obtain ⟨f, hf⟩ := setLy_eq 144#8 s
      rw [hf]
      exact ⟨_, requestStat_eq ..⟩
    · obtain ⟨f, hf⟩ := setLy_eq (s.ppu.ly + 1#8) s
      rw [hf]
      exact ⟨_, requestStat_eq ..⟩
  | vblank =>
    dsimp only [endVblankLine]
    split
    · obtain ⟨f, hf⟩ := setLy_eq 0#8 s
      rw [hf]
      exact ⟨_, requestStat_eq ..⟩
    · exact setLy_eq ..

/-- `PpuStep` changes the PPU and IF only. -/
theorem ppuStep_eq (c : Nat) (s : State) : ∃ p f, ppuStep c s = { s with ppu := p, ifReg := f } := by
  refine ppuStep_induction (fun t => ∃ p f, t = { s with ppu := p, ifReg := f }) ?_ ?_ c s ⟨s.ppu, s.ifReg, rfl⟩
  · rintro _ n ⟨p, f, rfl⟩
    exact ⟨_, f, rfl⟩
  · rintro _ ⟨p, f, rfl⟩
    obtain ⟨f', h⟩ := endMode_eq { s with ppu := p, ifReg := f }
    exact ⟨_, f', h⟩

/-- The loop of `PpuStep` ends with the mode counter below the length of the mode (61_ppu.md R412). -/
theorem ppuLoop_modeTime (f : Nat) (s : State) (hf : s.ppu.modeCycles < 80 * f) :
    (ppuLoop f s).ppu.modeCycles < modeLength (ppuLoop f s).ppu.mode := by
  induction f generalizing s with
  | zero => omega
  | succ f ih =>
    have := modeLength_pos s.ppu.mode
    unfold ppuLoop
    split
    · exact ih _ (by simp only [endMode_modeCycles]; omega)
    · omega

theorem ppuStep_modeTime (c : Nat) (s : State) :
    (ppuStep c s).ppu.modeCycles < modeLength (ppuStep c s).ppu.mode :=
  ppuLoop_modeTime _ _ (by dsimp only [ppuFuel]; omega)

/-- The invariant of the PPU, but for the mode counter. -/
structure PpuInv (p : Ppu) : Prop where
  statLow : p.statEn &&& 0x87#8 = 0#8
  line : p.ly.toNat ≤ 153
  vblankLines : p.mode = .vblank ↔ 144 ≤ p.ly.toNat
  workShape : isFrame p.work
  framesShape : ∀ f ∈ p.frames, isFrame f

theorem PpuInv.writeReg {p : Ppu} (h : PpuInv p) (r : PpuReg) (v : Byte) : PpuInv (p.writeReg r v) := by
  obtain ⟨hstat, hline, hvblank, hwork, hframes⟩ := h
  cases r with
  | stat => exact ⟨by simp only [Ppu.writeReg, BitVec.and_assoc]; exact BitVec.and_zero, hline, hvblank, hwork, hframes⟩
  | _ => exact ⟨hstat, hline, hvblank, hwork, hframes⟩

theorem PpuInv.afterMode {s : State} (h : PpuInv s.ppu) : PpuInv (ppuAfterMode s) := by
  obtain ⟨hstat, hline, hvblank, hwork, hframes⟩ := h
  unfold ppuAfterMode
  split
  case h_1 hm => exact ⟨hstat, hline, by simpa [hm] using hvblank, hwork, hframes⟩
  case h_2 hm =>
    exact ⟨hstat, hline, by simpa [hm] using hvblank, isFrame_set hwork _ (length_linePixels ..), hframes⟩
  case h_3 hm =>
    have hlt : s.ppu.ly.toNat < 144 := by simpa [hm] using hvblank
    split
    · refine ⟨hstat, by simp, by simp, hwork, fun f hf => ?_⟩
      rcases List.mem_append.1 hf with hf | hf
      · exact hframes f hf
      · rw [List.mem_singleton.1 hf]; exact hwork
    · have hnext : (s.ppu.ly + 1#8).toNat < 144 := by bv_omega
      exact ⟨hstat, by dsimp only; omega, by simpa using hnext, hwork, hframes⟩
  case h_4 hm =>
    have hge : 144 ≤ s.ppu.ly.toNat := hvblank.1 hm
    split
    · exact ⟨hstat, by simp, by simp, hwork, hframes⟩
    · have hnext : 144 ≤ (s.ppu.ly + 1#8).toNat ∧ (s.ppu.ly + 1#8).toNat ≤ 153 := by bv_omega
      exact ⟨hstat, hnext.2, by simpa [hm] using hnext.1, hwork, hframes⟩

theorem PpuInv.ppuStep {s : State} (h : PpuInv s.ppu) (c : Nat) : PpuInv (ppuStep c s).ppu := by
  refine ppuStep_induction (fun t => PpuInv t.ppu) (fun _ _ ht => ?_) (fun t ht => ?_) c s h
  · exact ⟨ht.statLow, ht.line, ht.vblankLines, ht.workShape, ht.framesShape⟩
  · obtain ⟨f, heq⟩ := endMode_eq t
    rw [heq]
    exact ht.afterMode

/-! ### The invariant -/

theorem Inv.ppuInv {s : State} (h : Inv s) : PpuInv s.ppu :=
  ⟨h.statLow, h.line, h.vblankLines, h.workShape, h.framesShape⟩

/-- A change of the CPU keeps the invariant if it keeps the parts that speak of F, the delay of `EI` and the latch. -/
theorem Inv.of_cpu {s t : State} (h : Inv s) (hmem : t.mem = s.mem) (hboot : t.boot = s.boot) (hppu : t.ppu = s.ppu)
    (hflags : t.regs.f &&& 0x0F#8 = 0#8) (hdelay : t.imeDelay ≤ 2)
    (hlatch : t.bootOverlay = true → t.regs.pc ≠ 0x0100#16) : Inv t where
  memWf := hmem ▸ h.memWf
  bootWf := hboot ▸ h.bootWf
  memKeys := hmem ▸ h.memKeys
  bootKeys := hboot ▸ h.bootKeys
  flagsLow := hflags
  statLow := hppu ▸ h.statLow
  delay := hdelay
  line := hppu ▸ h.line
  vblankLines := hppu ▸ h.vblankLines
  modeTime := hppu ▸ h.modeTime
  workShape := hppu ▸ h.workShape
  framesShape := hppu ▸ h.framesShape
  latch := hlatch

/-- A change of the cells and of the PPU keeps the invariant if it keeps their parts. -/
theorem Inv.of_devices {s t : State} (h : Inv s) (hboot : t.boot = s.boot) (hregs : t.regs = s.regs)
    (hdelay : t.imeDelay = s.imeDelay) (hov : t.bootOverlay = s.bootOverlay) (hcells : CellsOk t.mem)
    (hppu : PpuInv t.ppu) (htime : t.ppu.modeCycles < modeLength t.ppu.mode) : Inv t where
  memWf := hcells.1
  bootWf := hboot ▸ h.bootWf
  memKeys := hcells.2
  bootKeys := hboot ▸ h.bootKeys
  flagsLow := hregs ▸ h.flagsLow
  statLow := hppu.statLow
  delay := hdelay ▸ h.delay
  line := hppu.line
  vblankLines := hppu.vblankLines
  modeTime := htime
  workShape := hppu.workShape
  framesShape := hppu.framesShape
  latch := by rw [hov, hregs]; exact h.latch

theorem Inv.busWrite {s : State} (h : Inv s) (a : Word) (v : Byte) : Inv (busWrite a v s) := by
  have hppu : PpuInv (Machine.busWrite a v s).ppu ∧
      (Machine.busWrite a v s).ppu.modeCycles < modeLength (Machine.busWrite a v s).ppu.mode := by
    rcases busWrite_cases a v s with ⟨m, heq⟩ | heq | heq | ⟨r, m, heq⟩ <;> rw [heq]
    case inr.inr.inr =>
      obtain ⟨-, hmode, hcycles, -, -⟩ := writeReg_devices r v s.ppu
      exact ⟨h.ppuInv.writeReg r v, by dsimp only; rw [hmode, hcycles]; exact h.modeTime⟩
    all_goals exact ⟨h.ppuInv, h.modeTime⟩
  exact h.of_devices (busWrite_boot ..) (busWrite_regs ..) (busWrite_imeDelay ..) (busWrite_bootOverlay ..)
    (CellsOk.busWrite ⟨h.memWf, h.memKeys⟩ a v) hppu.1 hppu.2

theorem Inv.ppuStep {s : State} (h : Inv s) (c total : Nat) : Inv { ppuStep c s with totalCycles := total } := by
  have hppu := h.ppuInv.ppuStep c
  have htime := ppuStep_modeTime c s
  obtain ⟨p, f, heq⟩ := ppuStep_eq c s
  rw [heq] at hppu htime ⊢
  exact h.of_devices rfl rfl rfl rfl ⟨h.memWf, h.memKeys⟩ hppu htime

/-- The invariant is kept piece by piece: F is masked, the latch falls with PC at 0x0100, stores and the PPU keep their
parts. -/
theorem inv_keptByPieces : KeptByPieces Inv where
  setReg s r v h := h.of_cpu (by simp) (by simp) (by simp) (by simpa using h.flagsLow) (by simpa using h.delay)
    (by simpa using h.latch)
  setF s v h := h.of_cpu rfl rfl rfl (by simp only [State.setF_f, BitVec.and_assoc]; exact BitVec.and_zero) h.delay
    h.latch
  setSp s v h := h.of_cpu rfl rfl rfl h.flagsLow h.delay h.latch
  setPc s v h := h.of_cpu rfl rfl rfl h.flagsLow h.delay (by simp)
  store s a v h := h.busWrite a v
  control s hlt stp c h := h.of_cpu rfl rfl rfl h.flagsLow h.delay h.latch
  interrupts s b n f hn h := h.of_cpu rfl rfl rfl h.flagsLow (hn.trans (max_le le_rfl h.delay)) h.latch
  ppu s c total h := h.ppuStep c total

/-- Settles O9: every piece of a step keeps the invariant. -/
theorem stepKeepsInv : Obligations.StepKeepsInv := fun _ _ hs h => inv_keptByPieces.step h hs

/-! ### The launch parameters -/

/-- The launch parameters of `t` are those of `s`, and the overlay latch of `t` is on only if that of `s` is
(10_state.md R32, R39). -/
def SameLaunch (s t : State) : Prop :=
  t.boot = s.boot ∧ t.cartLoaded = s.cartLoaded ∧ (∀ k, k < 0x8000 → t.mem.read k = s.mem.read k) ∧
    (t.bootOverlay = true → s.bootOverlay = true)

theorem sameLaunch_keptByPieces (s : State) : KeptByPieces (SameLaunch s) where
  setReg t r v h := by simpa [SameLaunch] using h
  setF t v h := h
  setSp t v h := h
  setPc t v h := by
    obtain ⟨hboot, hcart, hrom, hov⟩ := h
    exact ⟨hboot, hcart, hrom, fun hv => hov (Bool.and_eq_true_iff.1 hv).1⟩
  store t a v h := by
    obtain ⟨hboot, hcart, hrom, hov⟩ := h
    exact ⟨(busWrite_boot ..).trans hboot, (busWrite_cartLoaded ..).trans hcart,
      fun k hk => (busWrite_read_rom a v t hk).trans (hrom k hk), busWrite_bootOverlay a v t ▸ hov⟩
  control t hlt stp c h := h
  interrupts t b n f hn h := h
  ppu t c total h := by
    obtain ⟨p, f, heq⟩ := ppuStep_eq c t
    rw [heq]
    exact h

/-- Settles O11: every piece of a step keeps the launch parameters of the state it began in. -/
theorem stepKeepsLaunchParameters : Obligations.StepKeepsLaunchParameters := fun s _ h =>
  (sameLaunch_keptByPieces s).step h ⟨rfl, rfl, fun _ _ => rfl, id⟩

/-! ### IME -/

theorem Updates.ime_imeDelay {s t : State} (h : Updates s t) : t.ime = s.ime ∧ t.imeDelay = s.imeDelay := by
  induction h with
  | refl => exact ⟨rfl, rfl⟩
  | setReg _ r v ih => simpa using ih
  | setF _ v ih => exact ih
  | setSp _ v ih => exact ih
  | setPc _ v ih => exact ih
  | store _ a v ih => simpa using ih
  | control _ hlt stp c ih => exact ih

theorem tickIme_ime (s : State) : (tickIme s).ime = (s.ime || s.imeDelay == 1) := by
  unfold tickIme
  split
  · rfl
  · simp [show s.imeDelay = 0 by omega]

/-- The end of a step sets IME exactly when the delay of `EI` expires (60_exceptions.md R356). -/
theorem retire_ime (c : Nat) (s : State) : (retire c s).ime = (s.ime || s.imeDelay == 1) := by
  obtain ⟨p, f, heq⟩ := ppuStep_eq c (tickIme s)
  rw [← tickIme_ime, retire]
  dsimp only
  rw [heq]

/-- Only `RETI` and `DI` write IME, and no other instruction brings the delay of `EI` to 1. -/
theorem Effect.ime {i : Instr} {s t : State} (h : Effect i s t) :
    (t.ime = s.ime ∧ (t.imeDelay = 1 → s.imeDelay = 1)) ∨ (i = .reti ∧ t.ime = true) ∨
      (i = .di ∧ t.ime = false ∧ t.imeDelay = 0) := by
  unfold Effect at h
  split at h
  · exact .inr (.inr ⟨rfl, by rw [h], by rw [h]⟩)
  · rw [h]
    exact .inl ⟨rfl, fun h1 => by dsimp only at h1; split at h1 <;> omega⟩
  · exact .inr (.inl ⟨rfl, by rw [h]; rfl⟩)
  · obtain ⟨hime, hdelay⟩ := h.ime_imeDelay
    exact .inl ⟨hime, fun h1 => hdelay ▸ h1⟩

/-- IME over the run of one instruction: unchanged, or set by the delay of `EI` or by `RETI`, or cleared by `DI`. -/
theorem runInstr_ime {c0 : Nat} {s t : State} (h : runInstr c0 s = .next t) :
    (s.ime = false → t.ime = true → s.imeDelay = 1 ∨ fetch s = .reti) ∧
      (s.ime = true → t.ime = false → fetch s = .di) := by
  obtain ⟨u, -, heff, ht⟩ := runInstr_cases h
  obtain ⟨hime, hdelay⟩ := (Updates.advance (fetch s) s).ime_imeDelay
  have hkeep : u.ime = true → t.ime = true := fun hu => by
    rcases ht with ⟨-, rfl⟩ | ⟨-, rfl⟩
    · exact hu
    · rw [retire_ime, hu, Bool.true_or]
  have hset : t.ime = true → u.ime = true ∨ u.imeDelay = 1 := fun h1 => by
    rcases ht with ⟨-, rfl⟩ | ⟨-, rfl⟩
    · exact .inl h1
    · simpa [retire_ime] using h1
  have hu := heff.ime
  rw [hime, hdelay] at hu
  rcases hu with ⟨hu, hd⟩ | ⟨hi, hu⟩ | ⟨hi, hu, hd⟩
  · refine ⟨fun h0 h1 => .inl ?_, fun h1 h0 => ?_⟩
    · rcases hset h1 with hu1 | hd1
      · simp [hu, h0] at hu1
      · exact hd hd1
    · simp [hkeep (hu.trans h1)] at h0
  · exact ⟨fun _ _ => .inr hi, fun _ h0 => by simp [hkeep hu] at h0⟩
  · exact ⟨fun _ h1 => by simpa [hu, hd] using hset h1, fun _ _ => hi⟩

/-- Settles O20: by how the step went, and for a step that ran an instruction by its effect on IME. -/
theorem imeChangesOnlyAsTheSpecSays : Obligations.ImeChangesOnlyAsTheSpecSays := by
  intro s t h
  have hfetch : fetch (wake s) = fetch s := rfl
  obtain ⟨-, -, hstep⟩ := step_eq_next h
  rcases runningStep_cases hstep with ⟨-, rfl⟩ | ⟨-, -, rfl⟩ | ⟨-, n, hn, -⟩ | ⟨-, -, hrun⟩
  · exact ⟨fun h0 h1 => absurd (h0.symm.trans h1) (by decide), fun h1 h0 => absurd (h1.symm.trans h0) (by decide)⟩
  · rw [retire_ime]
    exact ⟨fun h0 h1 => .inl (by simpa [h0] using h1), fun h1 h0 => by simp [h1] at h0⟩
  · have hset : s.ime = true := by
      by_contra hne
      simp [State.interruptToTake, hne] at hn
    exact ⟨fun h0 => absurd (hset.symm.trans h0) (by decide), fun _ _ => .inl (by simp [hn])⟩
  · obtain ⟨hset, hclear⟩ := runInstr_ime hrun
    exact ⟨fun h0 h1 => hfetch ▸ hset h0 h1, fun h1 h0 => .inr (hfetch ▸ hclear h1 h0)⟩

end Sys2Proof.Machine
end

section
/-! SUPPORT. Proofs of the statements about memory: what a load and a store of each region do, the frame of a store and
of an instruction, words and the stack, the launched images, and the frame of the PPU. -/

namespace Sys2Proof.Machine

/-! ### ROM, the overlay and the unmapped gaps (20_memory.md R61-R64, R70) -/

theorem region_of_lt (ov : Bool) (a : Word) (h : a.toNat < 0x8000) :
    region ov a = if a.toNat < 0x100 ∧ ov = true then .bootImage else .rom := by
  simp only [region, h, ↓reduceIte]

/-- Settles O38: below 0x8000 the decoder answers the boot image or ROM, and both discard stores. -/
theorem romAndBootOverlay : Obligations.RomAndBootOverlay := by
  intro a v s ha
  by_cases h : a.toNat < 0x100 ∧ s.bootOverlay = true
  · rw [busWrite, busRead, region_of_lt _ a ha, if_pos h, if_pos h]
    exact ⟨rfl, rfl⟩
  · rw [busWrite, busRead, region_of_lt _ a ha, if_neg h, if_neg h]
    exact ⟨rfl, rfl⟩

/-- The rows of the decoder that are not plain storage (20_memory.md R61). -/
theorem region_not_storage (ov : Bool) (a : Word) (h : ¬ isStorage a = true) :
    (a.toNat < 0x8000 ∧ (region ov a = .bootImage ∨ region ov a = .rom)) ∨ region ov a = .unmapped ∨
      (a.toNat = 0xFF0F ∧ region ov a = .ifReg) ∨
      (0xFF40 ≤ a.toNat ∧ a.toNat < 0xFF4C ∧ region ov a = .ppu) ∨ (a.toNat = 0xFFFF ∧ region ov a = .ieReg) := by
  have hout := of_decide_eq_false (Bool.eq_false_of_not_eq_true h)
  rcases region_cases ov a with ⟨h1, -, hr⟩ | ⟨h1, -, hr⟩ | ⟨h1, h2, -⟩ | ⟨h1, h2, -⟩ | ⟨h1, h2, -⟩ | ⟨h1, h2, -⟩ |
    ⟨h1, h2, -⟩ | ⟨-, -, hr⟩ | ⟨h1, h2, hr⟩ | ⟨-, -, hr⟩ | ⟨h1, h2, hr⟩ | ⟨-, -, hr⟩ | ⟨h1, h2, -⟩ | ⟨h1, hr⟩
  -- boot image, ROM
  · exact .inl ⟨by omega, .inl hr⟩
  · exact .inl ⟨h1, .inr hr⟩
  -- VRAM, ERAM, WRAM, echo, OAM
  iterate 5 omega
  -- unmapped, IF, unmapped, PPU registers, unmapped
  · exact .inr (.inl hr)
  · exact .inr (.inr (.inl ⟨by omega, hr⟩))
  · exact .inr (.inl hr)
  · exact .inr (.inr (.inr (.inl ⟨h1, h2, hr⟩)))
  · exact .inr (.inl hr)
  -- HRAM, IE
  · omega
  · exact .inr (.inr (.inr (.inr ⟨h1, hr⟩)))

/-- The four gaps of the address map (20_memory.md R61, R70). -/
theorem region_of_gap (ov : Bool) (a : Word)
    (h : (0xFEA0 ≤ a.toNat ∧ a.toNat ≤ 0xFEFF) ∨ (0xFF00 ≤ a.toNat ∧ a.toNat ≤ 0xFF0E) ∨
      (0xFF10 ≤ a.toNat ∧ a.toNat ≤ 0xFF3F) ∨ (0xFF4C ≤ a.toNat ∧ a.toNat ≤ 0xFF7F)) :
    region ov a = .unmapped := by
  have hst : ¬ isStorage a = true := fun hst => by
    have := of_decide_eq_true hst
    omega
  rcases region_not_storage ov a hst with ⟨hlt, -⟩ | hr | ⟨heq, -⟩ | ⟨hlo, hhi, -⟩ | ⟨heq, -⟩
  case inr.inl => exact hr
  all_goals omega

/-! ### The launched images (20_memory.md R63, 70_reset_and_hazards.md R460) -/

/-- The reachable bytes of an image, absent bytes as 0x00. -/
theorem read_image (n k : Nat) (image : List Byte) :
    (Memory.ofBytes 0 (image.take n)).read k = if k < n then image.getD k 0x00#8 else 0x00#8 := by
  rw [Memory.read_ofBytes 0 k _ (Nat.zero_le k)]
  by_cases hk : k < n <;> simp [List.getD_eq_getElem?_getD, hk, unlistedByte]

theorem launch_mem_read (cart boot : List Byte) (k : Nat) :
    (launch cart boot).mem.read k = if k < 0x8000 then cart.getD k 0x00#8 else 0x00#8 :=
  read_image 0x8000 k cart

theorem launch_boot_read (cart boot : List Byte) (k : Nat) :
    (launch cart boot).boot.read k = if k < 0x100 then boot.getD k 0x00#8 else 0x00#8 :=
  read_image 0x100 k boot

/-- A launched machine answers a ROM address with the cartridge image. -/
theorem busRead_launch_cart (cart boot : List Byte) (a : Word) (hlo : 0x100 ≤ a.toNat) (hhi : a.toNat < 0x8000) :
    busRead a (launch cart boot) = cart.getD a.toNat 0x00#8 := by
  rw [(romAndBootOverlay a 0x00#8 _ hhi).2, if_neg (by omega), launch_mem_read, if_pos hhi]

/-- Settles O39: the gaps are unmapped, and beyond the end of the image ROM reads an absent byte. -/
theorem unmappedReadsZero : Obligations.UnmappedReadsZero := by
  refine fun a v s cart boot => ⟨fun hgap => ?_, fun hlo hhi hend => ⟨?_, (romAndBootOverlay a v _ hhi).1⟩⟩
  · rw [busRead, busWrite, region_of_gap _ a hgap]
    exact ⟨rfl, rfl⟩
  · rw [busRead_launch_cart cart boot a hlo hhi, List.getD_eq_default _ _ hend]

/-- At or above 0x8000 a read looks at the images through the cells of its own address only. -/
theorem busRead_images (a : Word) (m image : Memory) (s : State) (ha : 0x8000 ≤ a.toNat)
    (hm : m.read (cellOf a) = s.mem.read (cellOf a)) : busRead a { s with mem := m, boot := image } = busRead a s := by
  by_cases hst : isStorage a = true
  · rw [busRead_storage a _ hst, busRead_storage a _ hst]
    exact hm
  · rcases region_not_storage s.bootOverlay a hst with ⟨hlt, -⟩ | hr | ⟨-, hr⟩ | ⟨-, -, hr⟩ | ⟨-, hr⟩
    · omega
    all_goals simp only [busRead, hr]

/-- No address at or above 0x8000 names a cell of CART. -/
theorem le_cellOf (a : Word) (h : 0x8000 ≤ a.toNat) : 0x8000 ≤ cellOf a := by
  unfold cellOf
  split <;> omega

theorem inv_launch (cart boot : List Byte) : Inv (launch cart boot) where
  memWf := Memory.wf_ofBytes 0 _
  bootWf := Memory.wf_ofBytes 0 _
  memKeys c hc := .inl <| by
    have := (Memory.mem_ofBytes 0 _ c hc).2
    have := List.length_take_le 0x8000 cart
    omega
  bootKeys c hc := by
    have := (Memory.mem_ofBytes 0 _ c hc).2
    have := List.length_take_le 0x100 boot
    omega
  flagsLow := reset_inv.flagsLow
  statLow := reset_inv.statLow
  delay := reset_inv.delay
  line := reset_inv.line
  vblankLines := reset_inv.vblankLines
  modeTime := reset_inv.modeTime
  workShape := reset_inv.workShape
  framesShape := reset_inv.framesShape
  latch := reset_inv.latch

/-- Settles O40: by the decoder below 0x8000, and above it no cell of an image is named. -/
theorem launchHoldsTheImages : Obligations.LaunchHoldsTheImages := by
  intro cart boot a
  refine ⟨fun h => ?_, busRead_launch_cart cart boot a, fun h => ?_, fun h => ?_, rfl, inv_launch cart boot⟩
  · rw [(romAndBootOverlay a 0x00#8 _ (by omega)).2, if_pos ⟨h, rfl⟩, launch_boot_read, if_pos h]
  · rw [(romAndBootOverlay a 0x00#8 _ h).2, if_neg (by simp)]
    exact (launch_mem_read cart boot _).trans (if_pos h)
  · refine busRead_images a _ _ State.reset h ?_
    have := le_cellOf a h
    exact (launch_mem_read cart boot _).trans (if_neg (by omega))

/-! ### Plain storage and its echo (20_memory.md R65-R69) -/

/-- Every address that names a cell of storage is a storage address. -/
theorem isStorage_of_cellOf_eq {a b : Word} (ha : isStorage a = true) (h : cellOf a = cellOf b) :
    isStorage b = true := by
  have ha := of_decide_eq_true ha
  unfold cellOf at h
  refine decide_eq_true ?_
  split at h <;> split at h <;> omega

/-- Settles O35: a store of storage writes the cell that a load through any address of it reads. -/
theorem storageReadsBack : Obligations.StorageReadsBack := by
  intro a b v s hwf ha hab
  rw [busWrite_storage a v s ha, busRead_storage b _ (isStorage_of_cellOf_eq ha hab), ← hab]
  exact Memory.read_write_self _ v _ hwf

theorem isStorage_wram {a : Word} (hlo : 0xC000 ≤ a.toNat) (hhi : a.toNat < 0xFE00) : isStorage a = true :=
  decide_eq_true (by omega)

/-- An echo address and the address 0x2000 below name one cell (20_memory.md R68). -/
theorem cellOf_echo {a : Word} (hlo : 0xE000 ≤ a.toNat) (hhi : a.toNat ≤ 0xFDFF) :
    cellOf a = (a - 0x2000#16).toNat ∧ cellOf (a - 0x2000#16) = (a - 0x2000#16).toNat := by
  have hsub : (a - 0x2000#16).toNat = a.toNat - 0x2000 := by bv_omega
  unfold cellOf
  rw [hsub, if_pos (by omega), if_neg (by omega)]
  exact ⟨rfl, rfl⟩

/-- Settles O37: both addresses are storage and name one cell; the echo names no cell from 0xDE00 on. -/
theorem echoNamesWorkRam : Obligations.EchoNamesWorkRam := by
  intro a v s hlo hhi
  obtain ⟨hcell, hcell'⟩ := cellOf_echo hlo hhi
  have hsub : (a - 0x2000#16).toNat = a.toNat - 0x2000 := by bv_omega
  have ha : isStorage a = true := isStorage_wram (by omega) (by omega)
  have ha' : isStorage (a - 0x2000#16) = true := isStorage_wram (by omega) (by omega)
  refine ⟨?_, ?_, fun b hblo hbhi => ?_⟩
  · rw [busRead_storage _ s ha, busRead_storage _ s ha', hcell, hcell']
  · rw [busWrite_storage _ v s ha, busWrite_storage _ v s ha', hcell, hcell']
  · have hb : cellOf b = b.toNat := by unfold cellOf; rw [if_neg (by omega)]
    rw [busWrite_storage b v s (isStorage_wram (by omega) (by omega)), hb]
    exact busRead_writeCell a _ v s (by omega)

/-! ### What a store leaves unchanged (20_memory.md R71, R83) -/

theorem touches_eq_false_iff (a b : Word) :
    touches a b = false ↔ cellOf a ≠ cellOf b ∧ (a = 0xFF46#16 → ¬ (0xFE00 ≤ b.toNat ∧ b.toNat < 0xFEA0)) ∧
      (a = 0xFF45#16 → b ≠ 0xFF41#16) := by
  simp only [touches, Bool.or_eq_false_iff, Bool.and_eq_false_imp, beq_eq_false_iff_ne, beq_iff_eq,
    decide_eq_false_iff_not, ne_eq, and_assoc]

/-- A read looks at IF, at IE and at a register of the PPU through that register's address only. -/
theorem busRead_registers (b : Word) (i e : Byte) (p : Ppu) (s : State) (hi : b.toNat = 0xFF0F → i = s.ifReg)
    (he : b.toNat = 0xFFFF → e = s.ieReg)
    (hp : 0xFF40 ≤ b.toNat → b.toNat < 0xFF4C → p.readReg (ppuRegAt b) = s.ppu.readReg (ppuRegAt b)) :
    busRead b { s with ifReg := i, ieReg := e, ppu := p } = busRead b s := by
  by_cases hst : isStorage b = true
  · rw [busRead_storage b _ hst, busRead_storage b _ hst]
  · rcases region_not_storage s.bootOverlay b hst with ⟨-, hr | hr⟩ | hr | ⟨heq, hr⟩ | ⟨hlo, hhi, hr⟩ | ⟨heq, hr⟩ <;>
      simp only [busRead, hr]
    · exact hi heq
    · exact hp hlo hhi
    · exact he heq

/-- The offset of a PPU register from 0xFF40 (10_state.md R34). -/
def PpuReg.offset : PpuReg → Nat
  | .lcdc => 0
  | .stat => 1
  | .scy => 2
  | .scx => 3
  | .ly => 4
  | .lyc => 5
  | .dma => 6
  | .bgp => 7
  | .obp0 => 8
  | .obp1 => 9
  | .wy => 10
  | .wx => 11

theorem offset_ppuRegAt (a : Word) (hlo : 0xFF40 ≤ a.toNat) (hhi : a.toNat < 0xFF4C) :
    (ppuRegAt a).offset = a.toNat - 0xFF40 := by
  have hlt : a.toNat - 0xFF40 < 12 := by omega
  unfold ppuRegAt
  generalize a.toNat - 0xFF40 = n at hlt
  interval_cases n <;> rfl

/-- A write to a register shows in that register, and a write to LYC in STAT (61_ppu.md R401, R403). -/
theorem readReg_writeReg_ne (r q : PpuReg) (v : Byte) (p : Ppu) (hne : q ≠ r) (hlyc : r = .lyc → q ≠ .stat) :
    (p.writeReg r v).readReg q = p.readReg q := by
  cases r <;> cases q <;> first | rfl | exact absurd rfl hne | exact absurd rfl (hlyc rfl)

theorem busRead_ppuWrite (b : Word) (r : PpuReg) (v : Byte) (s : State)
    (hreg : 0xFF40 ≤ b.toNat → b.toNat < 0xFF4C → ppuRegAt b ≠ r ∧ (r = .lyc → ppuRegAt b ≠ .stat))
    (hoam : r = .dma → ¬ (0xFE00 ≤ b.toNat ∧ b.toNat < 0xFEA0)) :
    busRead b (ppuWrite r v s) = busRead b s := by
  have hppu : busRead b { s with ppu := s.ppu.writeReg r v } = busRead b s :=
    busRead_registers b s.ifReg s.ieReg _ s (fun _ => rfl) (fun _ => rfl) fun hlo hhi =>
      readReg_writeReg_ne r _ v _ (hreg hlo hhi).1 (hreg hlo hhi).2
  cases r with
  | dma => exact (busRead_oamCopy v b _ (hoam rfl)).trans hppu
  | _ => exact hppu

/-- A store leaves every byte it does not touch. -/
theorem busRead_busWrite_of_touches {a b : Word} (v : Byte) (s : State) (h : touches a b = false) :
    busRead b (busWrite a v s) = busRead b s := by
  obtain ⟨hcell, hdma, hlyc⟩ := (touches_eq_false_iff a b).1 h
  have hne : a.toNat ≠ b.toNat := fun he => hcell (by rw [BitVec.eq_of_toNat_eq he])
  by_cases hst : isStorage a = true
  · rw [busWrite_storage a v s hst]
    exact busRead_writeCell b _ v s (Ne.symm hcell)
  · rcases region_not_storage s.bootOverlay a hst with ⟨-, hr | hr⟩ | hr | ⟨heq, hr⟩ | ⟨hlo, hhi, hr⟩ | ⟨heq, hr⟩ <;>
      simp only [busWrite, hr]
    · exact busRead_registers b v s.ieReg s.ppu s (by omega) (fun _ => rfl) fun _ _ => rfl
    · have hoff := offset_ppuRegAt a hlo hhi
      refine busRead_ppuWrite b _ v s (fun hblo hbhi => ?_) fun hq => hdma ?_
      · have hboff := offset_ppuRegAt b hblo hbhi
        refine ⟨fun hq => ?_, fun hq hstat => hlyc ?_ ?_⟩
        · rw [hq] at hboff; omega
        · rw [hq] at hoff; simp only [PpuReg.offset] at hoff; bv_omega
        · rw [hstat] at hboff; simp only [PpuReg.offset] at hboff; bv_omega
      · rw [hq] at hoff; simp only [PpuReg.offset] at hoff; bv_omega
    · exact busRead_registers b s.ifReg v s.ppu s (fun _ => rfl) (by omega) fun _ _ => rfl

/-- Settles O36: byte by byte, and every other field is out of a store's reach. -/
theorem storeFrame : Obligations.StoreFrame := by
  intro a v s
  refine ⟨fun b => busRead_busWrite_of_touches v s, busWrite_regs .., busWrite_ime .., busWrite_imeDelay ..,
    busWrite_halted .., busWrite_stopped .., busWrite_bootOverlay .., busWrite_fault .., busWrite_boot ..,
    busWrite_cartLoaded .., busWrite_totalCycles .., ?_⟩
  have hrom : ∀ k, k < 0x8000 → (busWrite a v s).mem.read k = s.mem.read k := fun k => busWrite_read_rom a v s
  rcases busWrite_cases a v s with ⟨m, heq⟩ | heq | heq | ⟨r, m, heq⟩ <;> rw [heq] at hrom ⊢
  case inr.inr.inr =>
    obtain ⟨hly, hmode, hcycles, hwork, hframes⟩ := writeReg_devices r v s.ppu
    exact ⟨hly, hmode, hcycles, hwork, hframes, hrom⟩
  all_goals exact ⟨rfl, rfl, rfl, rfl, rfl, hrom⟩

/-! ### Words and the stack (20_memory.md R76, R77, 41_load16_stack.md R168) -/

theorem busWrite_wf (a : Word) (v : Byte) {s : State} (h : s.mem.wf) : (busWrite a v s).mem.wf :=
  busWrite_mem_induction Memory.wf a v s (fun m k w hm _ _ => Memory.wf_write k w m hm) h

/-- A store to plain storage touches neither of its neighbours. -/
theorem touches_succ (a : Word) (h : isStorage a = true) : touches a (a + 1#16) = false := by
  have hst := of_decide_eq_true h
  refine (touches_eq_false_iff a _).2 ⟨fun hc => ?_, fun ha => ?_, fun ha => ?_⟩
  · have hsucc : (a + 1#16).toNat = a.toNat + 1 := by bv_omega
    unfold cellOf at hc
    rw [hsucc] at hc
    split at hc <;> split at hc <;> omega
  · subst ha; simp at hst
  · subst ha; simp at hst

/-- `push16` into storage leaves its word at the new SP. -/
theorem memRead16_push16 (v : Word) (s : State) (hwf : s.mem.wf) (hhi : isStorage (s.regs.sp - 1#16) = true)
    (hlo : isStorage (s.regs.sp - 2#16) = true) : memRead16 (s.regs.sp - 2#16) (push16 v s) = v := by
  have hsucc : s.regs.sp - 1#16 = s.regs.sp - 2#16 + 1#16 := by bv_omega
  have hlow : busRead (s.regs.sp - 2#16) (push16 v s) = lo v := by
    rw [push16_eq, busRead_setSp]
    exact storageReadsBack _ _ _ _ (busWrite_wf _ _ hwf) hlo rfl
  have hhigh : busRead (s.regs.sp - 2#16 + 1#16) (push16 v s) = hi v := by
    rw [push16_eq, busRead_setSp, busRead_busWrite_of_touches _ _ (touches_succ _ hlo), ← hsucc]
    exact storageReadsBack _ _ _ _ hwf hhi rfl
  rw [memRead16, hlow, hhigh, word_hi_lo]

/-- Settles O41: `push16` stores both halves and lowers SP, and reading them back is the word at the new SP. -/
theorem wordsAndStack : Obligations.WordsAndStack := by
  intro a v s
  refine ⟨rfl, rfl, push16_eq v s, rfl, rfl, fun hwf hhi hlo => ?_⟩
  have hword := memRead16_push16 v s hwf hhi hlo
  rw [← push16_sp v s] at hword
  refine ⟨hword, hword, ?_⟩
  rw [popState, State.setSp_sp, push16_sp]
  bv_omega

/-! ### What the PPU leaves unchanged (61_ppu.md R400, R414, R416) -/

/-- `q` comes from `p` by steps of the PPU: its writable registers are those of `p`, and frames were only appended. -/
def PpuAdvanced (p q : Ppu) : Prop :=
  ∃ ly mode cycles work new,
    q = { p with ly := ly, mode := mode, modeCycles := cycles, work := work, frames := p.frames ++ new }

theorem PpuAdvanced.refl (p : Ppu) : PpuAdvanced p p :=
  ⟨p.ly, p.mode, p.modeCycles, p.work, [], by rw [List.append_nil]⟩

theorem PpuAdvanced.trans {p q r : Ppu} (hpq : PpuAdvanced p q) (hqr : PpuAdvanced q r) : PpuAdvanced p r := by
  obtain ⟨_, _, _, _, new, rfl⟩ := hpq
  obtain ⟨ly, mode, cycles, work, new', rfl⟩ := hqr
  exact ⟨ly, mode, cycles, work, new ++ new', by rw [List.append_assoc]⟩

theorem PpuAdvanced.afterMode (s : State) : PpuAdvanced s.ppu (ppuAfterMode s) := by
  have hkeep : ∀ ly mode work, PpuAdvanced s.ppu { s.ppu with ly := ly, mode := mode, work := work } :=
    fun ly mode work => ⟨ly, mode, s.ppu.modeCycles, work, [], by rw [List.append_nil]⟩
  unfold ppuAfterMode
  split
  · exact hkeep ..
  · exact hkeep ..
  · split
    · exact ⟨_, _, _, _, _, rfl⟩
    · exact hkeep ..
  · split
    · exact hkeep ..
    · exact hkeep ..

/-- `g` is `f` with interrupts 0 and 1 requested, one of them or none: the PPU's requests (61_ppu.md R413, R414). -/
def AddsRequests (f g : Byte) : Prop := ∃ bits : Byte, bits &&& 0xFC#8 = 0#8 ∧ g = f ||| bits

theorem AddsRequests.refl (f : Byte) : AddsRequests f f := ⟨0#8, rfl, by simp⟩

theorem AddsRequests.trans {f g h : Byte} (hfg : AddsRequests f g) (hgh : AddsRequests g h) : AddsRequests f h := by
  obtain ⟨x, hx, rfl⟩ := hfg
  obtain ⟨y, hy, rfl⟩ := hgh
  exact ⟨x ||| y, by rw [BitVec.and_or_distrib_right, hx, hy]; rfl, BitVec.or_assoc ..⟩

theorem AddsRequests.requestStat (bit : Nat) (s : State) : AddsRequests s.ifReg (requestStat bit s).ifReg := by
  rw [requestStat_eq]
  dsimp only
  split
  · exact ⟨2#8, rfl, rfl⟩
  · exact .refl _

theorem AddsRequests.setLy (v : Byte) (s : State) : AddsRequests s.ifReg (setLy v s).ifReg := by
  unfold Machine.setLy
  dsimp only
  split
  · exact .requestStat ..
  · exact .refl _

theorem AddsRequests.endMode (s : State) : AddsRequests s.ifReg (endMode s).ifReg := by
  unfold Machine.endMode
  cases s.ppu.mode with
  | oamScan => exact .refl _
  | pixelTransfer => exact .requestStat ..
  | hblank =>
    dsimp only [endHblank]
    split
    · have hvblank : AddsRequests (Machine.setLy 144#8 s).ifReg
          (((deliverFrame ((Machine.setLy 144#8 s).setMode .vblank)).request 0).ifReg) := ⟨1#8, rfl, rfl⟩
      exact ((AddsRequests.setLy ..).trans hvblank).trans (.requestStat ..)
    · exact (AddsRequests.setLy ..).trans (.requestStat ..)
  | vblank =>
    dsimp only [endVblankLine]
    split
    · exact (AddsRequests.setLy ..).trans (.requestStat ..)
    · exact .setLy ..

theorem ppuStep_frame (c : Nat) (s : State) :
    PpuAdvanced s.ppu (ppuStep c s).ppu ∧ AddsRequests s.ifReg (ppuStep c s).ifReg := by
  refine ppuStep_induction (fun t => PpuAdvanced s.ppu t.ppu ∧ AddsRequests s.ifReg t.ifReg) ?_ ?_ c s
    ⟨.refl _, .refl _⟩
  · rintro t n ⟨⟨ly, mode, _, work, new, hppu⟩, hif⟩
    exact ⟨⟨ly, mode, n, work, new, by rw [State.withModeCycles, hppu]⟩, hif⟩
  · rintro t ⟨hppu, hif⟩
    refine ⟨hppu.trans ?_, hif.trans (.endMode t)⟩
    obtain ⟨f, heq⟩ := endMode_eq t
    rw [heq]
    exact .afterMode t

/-- Settles O27: each turn of the loop advances the PPU and requests interrupts 0 and 1 only. -/
theorem ppuStepFrame : Obligations.PpuStepFrame := by
  intro c s
  obtain ⟨⟨ly, mode, cycles, work, new, hppu⟩, hif⟩ := ppuStep_frame c s
  obtain ⟨p, f, heq⟩ := ppuStep_eq c s
  rw [heq] at hppu hif ⊢
  dsimp only at hppu hif ⊢
  rw [hppu]
  exact ⟨rfl, hif, new, rfl⟩

/-! ### What an instruction leaves unchanged (20_memory.md R71, R80, R83) -/

/-- At or above 0x0100 a read does not look at the overlay latch. -/
theorem busRead_bootOverlay (b : Word) (ov : Bool) (s : State) (h : 0x100 ≤ b.toNat) :
    busRead b { s with bootOverlay := ov } = busRead b s := by
  have hr : region ov b = region s.bootOverlay b := by
    simp only [region, show ¬ b.toNat < 0x100 by omega, false_and, ↓reduceIte]
  simp only [busRead, hr]

/-- Every address that no store to `as` touches reads in `t` as in `s`, the overlay latch of `t` set back to that of
`s`. -/
structure ReadsKept (as : List Word) (s t : State) : Prop where
  busRead_eq : ∀ b : Word, (∀ a ∈ as, touches a b = false) →
    busRead b { t with bootOverlay := s.bootOverlay } = busRead b s

namespace ReadsKept

variable {as : List Word} {s t : State}

/-- While the latch holds its value, and at or above 0x0100 always, the reads themselves are kept. -/
theorem busRead_of_latch (h : ReadsKept as s t) (b : Word) (hb : ∀ a ∈ as, touches a b = false)
    (hov : t.bootOverlay = s.bootOverlay ∨ 0x100 ≤ b.toNat) : busRead b t = busRead b s := by
  have hkept := h.busRead_eq b hb
  rcases hov with hov | hov
  · rwa [← hov] at hkept
  · rwa [busRead_bootOverlay b _ t hov] at hkept

theorem refl (as : List Word) (s : State) : ReadsKept as s s := ⟨fun _ _ => rfl⟩

theorem store (a : Word) (v : Byte) (s : State) : ReadsKept [a] s (busWrite a v s) :=
  ⟨fun b hb => by
    rw [← busWrite_bootOverlay a v s]
    exact busRead_busWrite_of_touches v s (hb a (by simp))⟩

theorem storeTwo (a a' : Word) (v v' : Byte) (s : State) :
    ReadsKept [a, a'] s (busWrite a' v' (busWrite a v s)) :=
  ⟨fun b hb => by
    rw [← busWrite_bootOverlay a v s, ← busWrite_bootOverlay a' v', ← busRead_busWrite_of_touches v s (hb a (by simp))]
    exact busRead_busWrite_of_touches v' _ (hb a' (by simp))⟩

theorem setReg (h : ReadsKept as s t) (r : Reg8) (v : Byte) : ReadsKept as s (t.setReg r v) := by
  cases r <;> exact ⟨h.busRead_eq⟩

theorem setFlags (h : ReadsKept as s t) (z n hf c : Bool) : ReadsKept as s (t.setFlags z n hf c) := ⟨h.busRead_eq⟩

theorem setSp (h : ReadsKept as s t) (v : Word) : ReadsKept as s (t.setSp v) := ⟨h.busRead_eq⟩

theorem setPc (h : ReadsKept as s t) (v : Word) : ReadsKept as s (t.setPc v) := ⟨h.busRead_eq⟩

theorem setHl (h : ReadsKept as s t) (v : Word) : ReadsKept as s (t.setHl v) := ⟨h.busRead_eq⟩

theorem setPair (h : ReadsKept as s t) (rr : Pair) (v : Word) : ReadsKept as s (t.setPair rr v) := by
  cases rr <;> exact ⟨h.busRead_eq⟩

theorem setStackPair (h : ReadsKept as s t) (rr : StackPair) (v : Word) : ReadsKept as s (t.setStackPair rr v) := by
  cases rr <;> exact ⟨h.busRead_eq⟩

theorem accumulate (op : AluOp) (x : Byte) (s : State) : ReadsKept as s (accumulate op x s) := by
  obtain ⟨a, z, n, h, c, heq, -⟩ := accumulate_frame op x s
  rw [heq]
  exact ((refl as s).setReg .a a).setFlags z n h c

theorem rotateReg (op : RotOp) (r : Reg8) (s : State) : ReadsKept as s (rotateReg op r s) :=
  ((refl as s).setReg ..).setFlags ..

theorem testBit (b : BitVec 3) (v : Byte) (s : State) : ReadsKept as s (testBit b v s) := (refl as s).setFlags ..

theorem rotateMemHl (op : RotOp) (s : State) : ReadsKept [s.hl] s (rotateMemHl op s) := (store ..).setFlags ..

theorem push16 (v : Word) (s : State) : ReadsKept [s.regs.sp - 1#16, s.regs.sp - 2#16] s (push16 v s) := by
  rw [push16_eq]
  exact (storeTwo ..).setSp _

theorem callTo (target : Word) (s : State) :
    ReadsKept [s.regs.sp - 1#16, s.regs.sp - 2#16] s (callTo target s) := (push16 ..).setPc _

theorem returnTo (s : State) : ReadsKept as s (returnTo s) := ((refl as s).setSp _).setPc _

theorem transferIf (cc : Cond) {taken : State → State} (h : ReadsKept as s (taken s)) :
    ReadsKept as s (transferIf cc taken s) := by
  unfold Machine.transferIf
  split
  · exact h
  · exact refl ..

/-- A conditional call stores only when its condition holds. -/
theorem callIf (cc : Cond) (target : Word) (s : State) :
    ReadsKept (if holds cc s.regs.f then [s.regs.sp - 1#16, s.regs.sp - 2#16] else []) s
      (Machine.transferIf cc (Machine.callTo target) s) := by
  have hcond : s.cond cc = holds cc s.regs.f := by cases cc <;> rfl
  unfold Machine.transferIf
  rw [hcond]
  split
  · exact callTo ..
  · exact refl ..

end ReadsKept

theorem stores_rotReg (n : Nat) (r : Reg8) (s : State) : stores (rotReg n r) s = [] := by
  unfold rotReg
  split <;> rfl

theorem stores_rotMemHl (n : Nat) (s : State) : stores (rotMemHl n) s = [s.hl] := by
  unfold rotMemHl
  split <;> rfl

/-- Code 6 of a register field is `(HL)`, no register (30_encoding.md R103). -/
theorem ofCode_fieldZ_eq_none_iff (op : Byte) : Reg8.ofCode (fieldZ op) = none ↔ fieldZ op = 6 := by
  have hlt : fieldZ op < 8 := Nat.mod_lt _ (by omega)
  generalize fieldZ op = z at hlt
  interval_cases z <;> decide

/-- 0xCB stores where its extended instruction does. -/
theorem stores_prefixCb (op2 : Byte) (s : State) : stores (.prefixCb op2) s = stores (decodeExtended op2) s := by
  have hmem := ofCode_fieldZ_eq_none_iff op2
  simp only [stores, decodeExtended, ← hmem]
  cases Reg8.ofCode (fieldZ op2) with
  | some r =>
    rcases fieldX op2 with _ | _ | _ | n
    · exact (stores_rotReg ..).symm
    all_goals rfl
  | none =>
    rcases fieldX op2 with _ | _ | _ | n
    · exact (stores_rotMemHl ..).symm
    all_goals rfl

/-- The extended space. -/
theorem execPrefixCb_readsKept (op2 : Byte) (s : State) :
    ∃ t, execPrefixCb op2 s = .next t ∧ ReadsKept (stores (.prefixCb op2) s) s t := by
  rw [stores_prefixCb]
  unfold execPrefixCb
  generalize decodeExtended op2 = i
  split
  iterate 8 exact ⟨_, rfl, .rotateReg ..⟩
  iterate 8 exact ⟨_, rfl, .rotateMemHl ..⟩
  iterate 2 exact ⟨_, rfl, .testBit ..⟩
  · exact ⟨_, rfl, (ReadsKept.refl ..).setReg ..⟩
  · exact ⟨_, rfl, .store ..⟩
  · exact ⟨_, rfl, (ReadsKept.refl ..).setReg ..⟩
  · exact ⟨_, rfl, .store ..⟩
  · exact ⟨_, rfl, .refl ..⟩

/-- Every instruction completes, and keeps every byte its stores do not touch. -/
theorem exec_readsKept (i : Instr) (s : State) : ∃ t, exec i s = .next t ∧ ReadsKept (stores i s) s t :=
  match i with
  | .nop => ⟨_, rfl, .refl ..⟩
  | .di | .ei | .halt | .stop _ | .illegal _ => ⟨_, rfl, ⟨fun _ _ => rfl⟩⟩
  | .prefixCb op2 => execPrefixCb_readsKept op2 s
  -- loads and stores
  | .ldRrD16 .. | .incRr _ | .decRr _ => ⟨_, rfl, (ReadsKept.refl ..).setPair ..⟩
  | .ldRD8 .. | .ldRR .. | .ldRMemHl _ | .ldAMemBc | .ldAMemDe | .ldAMemA16 _ | .ldhAMemA8 _ | .ldAMemC | .resR ..
  | .setR .. => ⟨_, rfl, (ReadsKept.refl ..).setReg ..⟩
  | .ldMemBcA | .ldMemDeA | .ldMemHlD8 _ | .ldMemHlR _ | .ldMemA16A _ | .ldhMemA8A _ | .ldMemCA | .resMemHl _
  | .setMemHl _ => ⟨_, rfl, .store ..⟩
  | .ldMemA16Sp _ => ⟨_, rfl, .storeTwo ..⟩
  | .ldMemHliA | .ldMemHldA => ⟨_, rfl, (ReadsKept.store ..).setHl _⟩
  | .ldAMemHli | .ldAMemHld => ⟨_, rfl, ((ReadsKept.refl ..).setReg ..).setHl _⟩
  | .ldSpHl => ⟨_, rfl, (ReadsKept.refl ..).setSp _⟩
  | .pushRr _ => ⟨_, rfl, .push16 ..⟩
  | .popRr _ => ⟨_, rfl, ((ReadsKept.refl ..).setSp _).setStackPair ..⟩
  | .popAf => ⟨_, rfl, ((ReadsKept.refl ..).setSp _).setStackPair .af _⟩
  -- arithmetic
  | .addAR _ | .addAMemHl | .addAD8 _ | .adcAR _ | .adcAMemHl | .adcAD8 _ | .subAR _ | .subAMemHl | .subAD8 _
  | .sbcAR _ | .sbcAMemHl | .sbcAD8 _ | .andAR _ | .andAMemHl | .andAD8 _ | .xorAR _ | .xorAMemHl | .xorAD8 _
  | .orAR _ | .orAMemHl | .orAD8 _ | .cpAR _ | .cpAMemHl | .cpAD8 _ => ⟨_, rfl, .accumulate ..⟩
  | .incR _ | .decR _ | .daa | .cpl => ⟨_, rfl, ((ReadsKept.refl ..).setReg ..).setFlags ..⟩
  | .incMemHl | .decMemHl => ⟨_, rfl, (ReadsKept.store ..).setFlags ..⟩
  | .scf | .ccf => ⟨_, rfl, (ReadsKept.refl ..).setFlags ..⟩
  | .addHlRr _ | .ldHlSpE8 _ => ⟨_, rfl, ((ReadsKept.refl ..).setHl _).setFlags ..⟩
  | .addSpE8 _ => ⟨_, rfl, ((ReadsKept.refl ..).setSp _).setFlags ..⟩
  -- rotates, shifts and bits
  | .rlca | .rrca | .rla | .rra => ⟨_, rfl, ((ReadsKept.refl ..).setReg ..).setFlags ..⟩
  | .rlcR _ | .rrcR _ | .rlR _ | .rrR _ | .slaR _ | .sraR _ | .swapR _ | .srlR _ => ⟨_, rfl, .rotateReg ..⟩
  | .rlcMemHl | .rrcMemHl | .rlMemHl | .rrMemHl | .slaMemHl | .sraMemHl | .swapMemHl | .srlMemHl =>
    ⟨_, rfl, .rotateMemHl ..⟩
  | .bitR .. | .bitMemHl _ => ⟨_, rfl, .testBit ..⟩
  -- control transfers
  | .jpA16 _ | .jpHl | .jrE8 _ => ⟨_, rfl, (ReadsKept.refl ..).setPc _⟩
  | .jpCcA16 .. | .jrCcE8 .. => ⟨_, rfl, .transferIf _ ((ReadsKept.refl ..).setPc _)⟩
  | .callA16 _ | .rst _ => ⟨_, rfl, .callTo ..⟩
  | .callCcA16 .. => ⟨_, rfl, .callIf ..⟩
  | .ret => ⟨_, rfl, .returnTo ..⟩
  | .reti => ⟨_, rfl, ⟨(ReadsKept.returnTo s).busRead_eq⟩⟩
  | .retCc _ => ⟨_, rfl, .transferIf _ (.returnTo ..)⟩

/-- Settles O59: what each instruction keeps, with the latch as the transfer left it. -/
theorem memoryFrame : Obligations.MemoryFrame := fun i s => by
  obtain ⟨t, ht, hkept⟩ := exec_readsKept i s
  exact ⟨t, ht, hkept.busRead_of_latch⟩

end Sys2Proof.Machine
end

section
/-! SUPPORT. Proofs of the statements about the encoding. The decoder reads off a byte exactly what the encoder writes
(`decodeBytes_standsFor`), the encoder writes what the decoder reads back (`decodeHead_encode`); decoding a list is then
decoding its first three bytes (`decode_of_le`, `decode_of_lt`). -/

namespace Sys2Proof

/-! ### Fields and operand numbers (30_encoding.md R101-R111) -/

theorem fieldX_lt (op : Byte) : fieldX op < 4 := by unfold fieldX; omega

theorem fieldY_lt (op : Byte) : fieldY op < 8 := Nat.mod_lt _ (by omega)

theorem fieldZ_lt (op : Byte) : fieldZ op < 8 := Nat.mod_lt _ (by omega)

theorem opcode_toNat (op : Byte) : opcode op.toNat = op := by rw [opcode, BitVec.ofNat_toNat, BitVec.setWidth_eq]

/-- The fields `x`, `y` and `z` are all of the byte. -/
theorem opcode_fields (op : Byte) : opcode (0x40 * fieldX op + 0x08 * fieldY op + fieldZ op) = op := by
  have hsum : 0x40 * fieldX op + 0x08 * fieldY op + fieldZ op = op.toNat := by unfold fieldX fieldY fieldZ; omega
  rw [hsum, opcode_toNat]

theorem Reg8.code_of_ofCode {n : Nat} {r : Reg8} (h : Reg8.ofCode n = some r) : r.code = n := by
  unfold Reg8.ofCode at h
  split at h <;> cases h <;> rfl

theorem Reg8.eq_six_of_ofCode_eq_none {n : Nat} (hn : n < 8) (h : Reg8.ofCode n = none) : n = 6 := by
  revert h
  interval_cases n <;> decide

@[simp] theorem lowByte_imm16 (b1 b2 : Byte) : lowByte (imm16 b1 b2) = b1 := BitVec.extractLsb'_append_eq_right

@[simp] theorem highByte_imm16 (b1 b2 : Byte) : highByte (imm16 b1 b2) = b2 := BitVec.extractLsb'_append_eq_left

theorem imm16_lowByte_highByte (w : Word) : imm16 (lowByte w) (highByte w) = w := BitVec.extractLsb'_append_extractLsb'

/-! ### What the decoder reads is what the encoder writes -/

/-- The instruction `i` is in the opcode table and its bytes are `bytes`. -/
def StandsFor (i : Instr) (bytes : List Byte) : Prop := i.wf = true ∧ encode i = bytes

/-- The bytes after the first one, as the encoder writes them: none, an 8-bit operand, or the halves of a 16-bit one. -/
def operandBytes (b1 b2 : Byte) : Nat → List Byte
  | 0 => []
  | 1 => [b1]
  | _ => [lowByte (imm16 b1 b2), highByte (imm16 b1 b2)]

theorem rotReg_standsFor {y : Nat} (hy : y < 8) (r : Reg8) :
    StandsFor (rotReg y r) [0xCB#8, opcode (0x08 * y + r.code)] := by
  interval_cases y <;> exact ⟨rfl, rfl⟩

theorem rotMemHl_standsFor {y : Nat} (hy : y < 8) : StandsFor (rotMemHl y) [0xCB#8, opcode (0x08 * y + 6)] := by
  interval_cases y <;> exact ⟨rfl, rfl⟩

theorem aluReg_standsFor {y : Nat} (hy : y < 8) (r : Reg8) :
    StandsFor (aluReg y r) [opcode (0x80 + 0x08 * y + r.code)] := by
  interval_cases y <;> exact ⟨rfl, rfl⟩

theorem aluMemHl_standsFor {y : Nat} (hy : y < 8) : StandsFor (aluMemHl y) [opcode (0x80 + 0x08 * y + 6)] := by
  interval_cases y <;> exact ⟨rfl, rfl⟩

/-- The extended map: a row of registers, or of `(HL)` at field 6, for each `x`. -/
theorem decodeExtended_standsFor (op2 : Byte) : StandsFor (decodeExtended op2) [0xCB#8, op2] := by
  have hx := fieldX_lt op2
  have hy := fieldY_lt op2
  have hbit : (BitVec.ofNat 3 (fieldY op2)).toNat = fieldY op2 := Nat.mod_eq_of_lt hy
  suffices StandsFor (decodeExtended op2) [0xCB#8, opcode (0x40 * fieldX op2 + 0x08 * fieldY op2 + fieldZ op2)] by
    rwa [opcode_fields] at this
  unfold decodeExtended
  cases hr : Reg8.ofCode (fieldZ op2) with
  | some r =>
    rw [← Reg8.code_of_ofCode hr]
    interval_cases fieldX op2
    · simpa using rotReg_standsFor hy r
    all_goals exact ⟨rfl, by simp [encode, hbit]⟩
  | none =>
    rw [Reg8.eq_six_of_ofCode_eq_none (fieldZ_lt op2) hr]
    interval_cases fieldX op2
    · simpa using rotMemHl_standsFor hy
    all_goals exact ⟨rfl, by simp [encode, hbit, Nat.add_right_comm]⟩

/-- Quadrant 0, by its 64 rows. -/
theorem decodeQuadrant0_standsFor {y z : Nat} (hy : y < 8) (hz : z < 8) (b1 b2 : Byte) :
    StandsFor (decodeQuadrant0 (opcode (0x08 * y + z)) b1 b2)
      (opcode (0x08 * y + z) :: operandBytes b1 b2 (bytesAfter (opcode (0x08 * y + z)))) := by
  interval_cases z <;> interval_cases y <;> exact ⟨rfl, rfl⟩

/-- Quadrant 3, by its 64 rows; that of 0xCB is the extended map. -/
theorem decodeQuadrant3_standsFor {y z : Nat} (hy : y < 8) (hz : z < 8) (b1 b2 : Byte) :
    StandsFor (decodeQuadrant3 (opcode (0xC0 + 0x08 * y + z)) b1 b2)
      (opcode (0xC0 + 0x08 * y + z) :: operandBytes b1 b2 (bytesAfter (opcode (0xC0 + 0x08 * y + z)))) := by
  interval_cases z
  iterate 3 · interval_cases y <;> exact ⟨rfl, rfl⟩
  · interval_cases y
    · exact ⟨rfl, rfl⟩
    · exact decodeExtended_standsFor b1
    all_goals exact ⟨rfl, rfl⟩
  all_goals interval_cases y <;> exact ⟨rfl, rfl⟩

/-- No opcode of quadrants 1 and 2 has an operand byte (30_encoding.md R113). -/
theorem bytesAfter_of_fieldX {op : Byte} (hx : fieldX op = 1 ∨ fieldX op = 2) : bytesAfter op = 0 := by
  revert op
  decide

/-- Quadrant 1: a load between the operands of fields `y` and `z`, one of them `(HL)`, or `HALT`. -/
theorem decodeQuadrant1_standsFor {op : Byte} (hx : fieldX op = 1) : StandsFor (decodeQuadrant1 op) [op] := by
  suffices StandsFor (decodeQuadrant1 op) [opcode (0x40 * fieldX op + 0x08 * fieldY op + fieldZ op)] by
    rwa [opcode_fields] at this
  rw [hx]
  unfold decodeQuadrant1
  cases hd : Reg8.ofCode (fieldY op) with
  | some rd =>
    rw [← Reg8.code_of_ofCode hd]
    cases hs : Reg8.ofCode (fieldZ op) with
    | some rs =>
      rw [← Reg8.code_of_ofCode hs]
      exact ⟨rfl, rfl⟩
    | none =>
      rw [Reg8.eq_six_of_ofCode_eq_none (fieldZ_lt op) hs]
      exact ⟨rfl, by simp [encode, Nat.add_right_comm]⟩
  | none =>
    rw [Reg8.eq_six_of_ofCode_eq_none (fieldY_lt op) hd]
    cases hs : Reg8.ofCode (fieldZ op) with
    | some rs =>
      rw [← Reg8.code_of_ofCode hs]
      exact ⟨rfl, rfl⟩
    | none =>
      rw [Reg8.eq_six_of_ofCode_eq_none (fieldZ_lt op) hs]
      exact ⟨rfl, rfl⟩

/-- Quadrant 2: an accumulator operation on the operand of field `z`. -/
theorem decodeQuadrant2_standsFor {op : Byte} (hx : fieldX op = 2) : StandsFor (decodeQuadrant2 op) [op] := by
  suffices StandsFor (decodeQuadrant2 op) [opcode (0x40 * fieldX op + 0x08 * fieldY op + fieldZ op)] by
    rwa [opcode_fields] at this
  rw [hx]
  unfold decodeQuadrant2
  cases hr : Reg8.ofCode (fieldZ op) with
  | some r =>
    rw [← Reg8.code_of_ofCode hr]
    exact aluReg_standsFor (fieldY_lt op) r
  | none =>
    rw [Reg8.eq_six_of_ofCode_eq_none (fieldZ_lt op) hr]
    exact aluMemHl_standsFor (fieldY_lt op)

theorem bytesAfter_le_two (op : Byte) : bytesAfter op ≤ 2 := by
  unfold bytesAfter
  split
  · decide
  · split <;> decide

theorem operandBytes_eq_take (b1 b2 : Byte) {n : Nat} (hn : n ≤ 2) : operandBytes b1 b2 n = [b1, b2].take n := by
  interval_cases n <;> simp [operandBytes]

/-- Whatever the bytes, the decoder answers an instruction of the table, whose bytes are those of its length. -/
theorem decodeBytes_standsFor (b0 b1 b2 : Byte) :
    StandsFor (decodeBytes b0 b1 b2) (b0 :: [b1, b2].take (bytesAfter b0)) := by
  have hlt := fieldX_lt b0
  have hquadrant := opcode_fields b0
  rw [← operandBytes_eq_take b1 b2 (bytesAfter_le_two b0)]
  unfold decodeBytes
  interval_cases hx : fieldX b0
  · rw [← hquadrant, Nat.mul_zero, Nat.zero_add]
    exact decodeQuadrant0_standsFor (fieldY_lt b0) (fieldZ_lt b0) b1 b2
  · rw [bytesAfter_of_fieldX (.inl hx)]
    exact decodeQuadrant1_standsFor hx
  · rw [bytesAfter_of_fieldX (.inr hx)]
    exact decodeQuadrant2_standsFor hx
  · rw [← hquadrant]
    exact decodeQuadrant3_standsFor (fieldY_lt b0) (fieldZ_lt b0) b1 b2

/-! ### The decoder reads back what the encoder writes -/

/-- The instruction of the bytes at the head of a list, a missing byte read as 0x00. -/
def decodeHead : List Byte → Instr
  | [] => decodeBytes 0x00#8 0x00#8 0x00#8
  | [b0] => decodeBytes b0 0x00#8 0x00#8
  | [b0, b1] => decodeBytes b0 b1 0x00#8
  | b0 :: b1 :: b2 :: _ => decodeBytes b0 b1 b2

theorem decodeHead_eq_decodeBytes (bytes : List Byte) : ∃ b0 b1 b2, decodeHead bytes = decodeBytes b0 b1 b2 :=
  match bytes with
  | [] => ⟨0x00#8, 0x00#8, 0x00#8, rfl⟩
  | [_] | [_, _] | _ :: _ :: _ :: _ => ⟨_, _, _, rfl⟩

/-- Every instruction of the table, by its operands: registers, pairs, conditions and bit numbers are small types, a
16-bit immediate is put together from its halves. -/
theorem decodeHead_encode (i : Instr) (h : i.wf = true) : decodeHead (encode i) = i :=
  match i with
  | .rst b | .bitMemHl b | .resMemHl b | .setMemHl b => by revert b; decide
  | .bitR b r | .resR b r | .setR b r => by revert b; cases r <;> decide
  | .prefixCb _ => nomatch h
  | .popRr .af => nomatch h
  | .popRr .bc | .popRr .de | .popRr .hl => rfl
  | .illegal hole => by cases hole <;> rfl
  | .pushRr rr => by cases rr <;> rfl
  | .ldRrD16 rr d16 => by cases rr <;> exact congrArg (Instr.ldRrD16 _) (imm16_lowByte_highByte d16)
  | .jpCcA16 cc a16 => by cases cc <;> exact congrArg (Instr.jpCcA16 _) (imm16_lowByte_highByte a16)
  | .callCcA16 cc a16 => by cases cc <;> exact congrArg (Instr.callCcA16 _) (imm16_lowByte_highByte a16)
  | .jpA16 a16 => congrArg Instr.jpA16 (imm16_lowByte_highByte a16)
  | .callA16 a16 => congrArg Instr.callA16 (imm16_lowByte_highByte a16)
  | .ldMemA16A a16 => congrArg Instr.ldMemA16A (imm16_lowByte_highByte a16)
  | .ldAMemA16 a16 => congrArg Instr.ldAMemA16 (imm16_lowByte_highByte a16)
  | .ldMemA16Sp a16 => congrArg Instr.ldMemA16Sp (imm16_lowByte_highByte a16)
  | .incRr rr | .decRr rr | .addHlRr rr => by cases rr <;> rfl
  | .jrCcE8 cc _ | .retCc cc => by cases cc <;> rfl
  | .ldRR rd rs => by cases rd <;> cases rs <;> rfl
  | .ldRD8 r _ | .incR r | .decR r | .ldRMemHl r | .ldMemHlR r | .addAR r | .adcAR r | .subAR r | .sbcAR r | .andAR r
  | .xorAR r | .orAR r | .cpAR r | .rlcR r | .rrcR r | .rlR r | .rrR r | .slaR r | .sraR r | .swapR r | .srlR r => by
    cases r <;> rfl
  | .nop | .ldMemBcA | .ldMemDeA | .ldMemHliA | .ldMemHldA | .incMemHl | .decMemHl | .ldMemHlD8 _ | .rlca | .rrca | .rla
  | .rra | .daa | .cpl | .scf | .ccf | .ldAMemBc | .ldAMemDe | .ldAMemHli | .ldAMemHld | .stop _ | .jrE8 _ | .halt
  | .addAMemHl | .adcAMemHl | .subAMemHl | .sbcAMemHl | .andAMemHl | .xorAMemHl | .orAMemHl | .cpAMemHl | .addAD8 _
  | .adcAD8 _ | .subAD8 _ | .sbcAD8 _ | .andAD8 _ | .xorAD8 _ | .orAD8 _ | .cpAD8 _ | .popAf | .ret | .reti
  | .ldhMemA8A _ | .ldhAMemA8 _ | .ldMemCA | .ldAMemC | .addSpE8 _ | .ldHlSpE8 _ | .jpHl | .ldSpHl | .di | .ei
  | .rlcMemHl | .rrcMemHl | .rlMemHl | .rrMemHl | .slaMemHl | .sraMemHl | .swapMemHl | .srlMemHl => rfl

/-- No two instructions of the table have the same bytes. -/
theorem encode_injective {i j : Instr} (hi : i.wf = true) (hj : j.wf = true) (h : encode i = encode j) : i = j := by
  rw [← decodeHead_encode i hi, h, decodeHead_encode j hj]

/-- The first byte fixes how many follow it (30_encoding.md R113). -/
theorem encode_eq_cons {i : Instr} (hi : i.wf = true) :
    ∃ b0 tail, encode i = b0 :: tail ∧ tail.length = bytesAfter b0 := by
  obtain ⟨b0, b1, b2, heq⟩ := decodeHead_eq_decodeBytes (encode i)
  obtain ⟨-, henc⟩ := decodeBytes_standsFor b0 b1 b2
  rw [← heq, decodeHead_encode i hi] at henc
  exact ⟨b0, _, henc, by simpa using bytesAfter_le_two b0⟩

/-! ### Decoding a list of bytes -/

theorem decodeHead_standsFor {b0 : Byte} {rest : List Byte} (h : bytesAfter b0 ≤ rest.length) :
    StandsFor (decodeHead (b0 :: rest)) (b0 :: rest.take (bytesAfter b0)) :=
  match rest with
  | [] => List.take_append_of_le_length (l₁ := []) h ▸ decodeBytes_standsFor b0 0x00#8 0x00#8
  | [b1] => List.take_append_of_le_length (l₁ := [b1]) h ▸ decodeBytes_standsFor b0 b1 0x00#8
  | b1 :: b2 :: rest => by
    rw [show b1 :: b2 :: rest = [b1, b2] ++ rest from rfl, List.take_append_of_le_length (bytesAfter_le_two b0)]
    exact decodeBytes_standsFor b0 b1 b2

/-- A byte past the length of the instruction has no part in it. -/
theorem decodeHead_take {b0 : Byte} {rest : List Byte} (h : bytesAfter b0 ≤ rest.length) :
    decodeHead (b0 :: rest.take (bytesAfter b0)) = decodeHead (b0 :: rest) := by
  obtain ⟨hwf, henc⟩ := decodeHead_standsFor h
  rw [← henc]
  exact decodeHead_encode _ hwf

theorem decode_of_le {b0 : Byte} {rest : List Byte} (h : bytesAfter b0 ≤ rest.length) :
    decode (b0 :: rest) = .ok (decodeHead (b0 :: rest), rest.drop (bytesAfter b0)) := by
  have hle := bytesAfter_le_two b0
  rw [← decodeHead_take h]
  simp only [decode]
  generalize bytesAfter b0 = n at h hle
  interval_cases n
  · rfl
  · match rest, h with
    | b1 :: rest, _ => rfl
  · match rest, h with
    | b1 :: b2 :: rest, _ => rfl

theorem decode_of_lt {b0 : Byte} {rest : List Byte} (h : rest.length < bytesAfter b0) :
    decode (b0 :: rest) = .error (.truncated b0) := by
  have hle := bytesAfter_le_two b0
  simp only [decode]
  generalize bytesAfter b0 = n at h hle
  interval_cases n
  · simp at h
  · match rest, h with
    | [], _ => rfl
  · match rest, h with
    | [], _ | [_], _ => rfl

/-! ### The statements -/

/-- Settles O1: the first byte of the instruction leaves the bytes after it alone, and the bytes it takes are those of
one instruction only. -/
theorem decodeOfEncode : Obligations.DecodeOfEncode := by
  intro i rest hi
  obtain ⟨b0, tail, henc, hlen⟩ := encode_eq_cons hi
  have hle : bytesAfter b0 ≤ (tail ++ rest).length := by rw [List.length_append]; omega
  obtain ⟨hwf, hbytes⟩ := decodeHead_standsFor hle
  rw [← hlen, List.take_left, ← henc] at hbytes
  have hhead : decodeHead (b0 :: (tail ++ rest)) = i := encode_injective hwf hi hbytes
  rw [henc, List.cons_append, decode_of_le hle, hhead, ← hlen, List.drop_left]

/-- Settles O2: what is decoded stands for the bytes of its length, and the rest is what is left of them. -/
theorem encodeOfDecode : Obligations.EncodeOfDecode := by
  intro bytes i rest h
  cases bytes with
  | nil => cases h
  | cons b0 bs =>
    rcases Nat.lt_or_ge bs.length (bytesAfter b0) with hlt | hle
    · rw [decode_of_lt hlt] at h
      cases h
    · rw [decode_of_le hle] at h
      cases h
      obtain ⟨hwf, henc⟩ := decodeHead_standsFor hle
      exact ⟨hwf, by rw [henc, List.cons_append, List.take_append_drop]⟩

/-- Settles O3: enough bytes decode (`decode_of_le`), fewer are rejected (`decode_of_lt`). -/
theorem decodingIsTotal : Obligations.DecodingIsTotal := fun _ _ =>
  ⟨rfl, fun h => ⟨_, decode_of_le h⟩, decode_of_lt⟩

/-- Settles O4: the encoder writes an undefined opcode as its one byte, so the byte it is decoded from is that one. -/
theorem undefinedOpcodesAreEleven : Obligations.UndefinedOpcodesAreEleven := by
  intro b0 b1 b2
  have hbyte : ∀ hole, decodeBytes b0 b1 b2 = .illegal hole → hole.opcode = b0 := by
    intro hole h
    obtain ⟨-, henc⟩ := decodeBytes_standsFor b0 b1 b2
    rw [h] at henc
    exact (List.cons.inj henc).1
  refine ⟨⟨?_, ?_⟩, hbyte⟩
  · rintro ⟨hole, h⟩
    rw [← hbyte hole h]
    cases hole <;> decide
  · intro hmem
    rw [← opcode_toNat b0]
    generalize b0.toNat = n at hmem
    fin_cases hmem <;> exact ⟨_, rfl⟩

/-- Settles O5: the lengths by instruction; the first byte fixes the same count. -/
theorem sizeIsEncodedLength : Obligations.SizeIsEncodedLength := by
  intro i hi hhole
  refine ⟨?_, encode_eq_cons hi⟩
  cases i with
  | illegal hole => exact absurd rfl (hhole hole)
  | _ => rfl

/-- Settles O6: each word is what the encoder writes for its instruction. -/
theorem decodedWords : Obligations.DecodedWords :=
  ⟨decodeOfEncode (.ldRR .b .c) [] rfl, decodeOfEncode (.ldRrD16 .hl 0x9800#16) [] rfl,
    decodeOfEncode (.addAR .b) [] rfl, decodeOfEncode (.subAD8 0x0F#8) [] rfl, decodeOfEncode (.addHlRr .de) [] rfl,
    decodeOfEncode (.bitR 7#3 .a) [] rfl, decodeOfEncode .swapMemHl [] rfl, decodeOfEncode (.jrCcE8 .nz 0xFE#8) [] rfl,
    decodeOfEncode (.callA16 0x0200#16) [] rfl, decodeOfEncode (.rst 5#3) [] rfl, decodeOfEncode .popAf [] rfl,
    decodeOfEncode .halt [] rfl, decodeOfEncode (.stop 0x00#8) [] rfl, decodeOfEncode (.illegal .xDD) [] rfl⟩

end Sys2Proof
end

section
/-! SUPPORT. The proof that a step runs the instruction decoded at PC. -/

namespace Sys2Proof.Machine

/-- The fetch is the decoding of the bytes at PC. -/
theorem fetch_of_decode {s : State} {i : Instr} {rest : List Byte} (h : decode (bytesAtPc s) = .ok (i, rest)) :
    fetch s = i := by
  rw [bytesAtPc, decode_of_le (bytesAfter_le_two _)] at h
  cases h
  rfl

theorem retire_eq (c : Nat) (s : State) :
    retire c s = { ppuStep c (tickIme s) with totalCycles := s.totalCycles + c } := by
  obtain ⟨p, f, hppu⟩ := ppuStep_eq c (tickIme s)
  obtain ⟨b, n, htick, -, -⟩ := tickIme_frame s
  have htotal : (ppuStep c (tickIme s)).totalCycles = s.totalCycles := by rw [hppu, htick]
  rw [retire, htotal]

/-- Every instruction completes; then the step ends there if a fatal condition was raised, and retires if not
(30_encoding.md R120, 60_exceptions.md R341). -/
theorem runInstr_eq {s : State} {i : Instr} (c0 : Nat) (h : fetch s = i) :
    ∃ t, exec i (advance i s) = .next t ∧
      runInstr c0 s = .next (if t.fault.isSome then t
        else { ppuStep (c0 + cycles i (advance i s)) (tickIme t) with
                totalCycles := t.totalCycles + (c0 + cycles i (advance i s)) }) := by
  obtain ⟨t, ht, -⟩ := exec_effect i (advance i s)
  refine ⟨t, ht, ?_⟩
  simp only [runInstr, h, ht, retire_eq]

/-- A ready machine whose CPU is awake dispatches or runs (30_encoding.md R120 steps 1 to 3). -/
theorem step_of_awake {s : State} (hready : Ready s) (hawake : Awake s) : step s = dispatchAndRun (wake s) := by
  obtain ⟨hfault, hstopped, hcart⟩ := hready
  have hidle : ¬ (s.halted = true ∧ s.pending = 0#8) := fun ⟨hh, hp⟩ => hawake hh hp
  simp [step, systemStep, hfault, hstopped, runningStep, hcart, if_neg hidle]

/-- Settles O13: waking leaves PC and the bytes there, so the fetch is the decoded instruction. -/
theorem stepRunsDecodedInstruction : Obligations.StepRunsDecodedInstruction := by
  intro s i rest hready hawake hint hdecode
  have hfetch : fetch (wake s) = i := fetch_of_decode hdecode
  obtain ⟨t, ht, hrun⟩ := runInstr_eq 0 hfetch
  have hwake : (wake s).interruptToTake = none := hint
  rw [Nat.zero_add] at hrun
  exact ⟨t, ht, by rw [step_of_awake hready hawake, dispatchAndRun, hwake, hrun]⟩

end Sys2Proof.Machine
end


section
/-! SUPPORT. Proofs of the statements about the 8-bit loads and stores. The forms that leave HL alone are their meanings
as written; those that move HL compute the new HL after the load or store, so they rest on its leaving HL unchanged. -/

namespace Sys2Proof.Machine

/-! ### HL is moved from where it stood (40_load8.md R146-R149) -/

@[simp] theorem State.setReg_a_hl (v : Byte) (s : State) : (s.setReg .a v).hl = s.hl := rfl

@[simp] theorem busWrite_hl (a : Word) (v : Byte) (s : State) : (busWrite a v s).hl = s.hl := by
  simp only [State.hl, busWrite_regs]

theorem incHl_of_hl_eq {s t : State} (h : t.hl = s.hl) : incHl t = t.setHl (s.hl + 1#16) := by rw [incHl, h]

theorem decHl_of_hl_eq {s t : State} (h : t.hl = s.hl) : decHl t = t.setHl (s.hl - 1#16) := by rw [decHl, h]

theorem exec_ldAMemHli (s : State) :
    exec .ldAMemHli s = .next ((s.setReg .a (busRead s.hl s)).setHl (s.hl + 1#16)) :=
  congrArg Host.Outcome.next (incHl_of_hl_eq (State.setReg_a_hl _ s))

theorem exec_ldAMemHld (s : State) :
    exec .ldAMemHld s = .next ((s.setReg .a (busRead s.hl s)).setHl (s.hl - 1#16)) :=
  congrArg Host.Outcome.next (decHl_of_hl_eq (State.setReg_a_hl _ s))

theorem exec_ldMemHliA (s : State) :
    exec .ldMemHliA s = .next ((busWrite s.hl s.regs.a s).setHl (s.hl + 1#16)) :=
  congrArg Host.Outcome.next (incHl_of_hl_eq (busWrite_hl _ _ s))

theorem exec_ldMemHldA (s : State) :
    exec .ldMemHldA s = .next ((busWrite s.hl s.regs.a s).setHl (s.hl - 1#16)) :=
  congrArg Host.Outcome.next (decHl_of_hl_eq (busWrite_hl _ _ s))

/-! ### The statements -/

/-- Settles O44: each form's meaning is the register write it names, and setting A does not disturb the HL that
`LD A,(HL+)` and `LD A,(HL-)` go on to move. -/
theorem loadResults : Obligations.LoadResults := fun _ _ _ _ s =>
  ⟨rfl, rfl, rfl, rfl, rfl, rfl, rfl, rfl, exec_ldAMemHli s, exec_ldAMemHld s⟩

/-- Settles O45: each form's meaning is the store it names, and the store does not disturb the HL that `LD (HL+),A` and
`LD (HL-),A` go on to move, whatever region it falls in. -/
theorem storeResults : Obligations.StoreResults := fun _ _ _ s =>
  ⟨rfl, rfl, rfl, rfl, rfl, rfl, rfl, exec_ldMemHliA s, exec_ldMemHldA s⟩

end Sys2Proof.Machine
end


section
/-! SUPPORT. Proof of the statement about the 16-bit loads and the stack. The words and the stack are O41's; what is left
is `addsp` (43_alu16.md R231): the model adds a sign-extended word, the statement a signed integer. -/

namespace Sys2Proof.Machine

/-! ### A signed displacement (00_scope.md R5, 43_alu16.md R231) -/

/-- The upper byte `sext16` puts before `e` is eight copies of the sign bit. -/
theorem sext16_eq_signExtend (e : Byte) : sext16 e = e.signExtend 16 := by
  rw [BitVec.signExtend_eq_append_of_le (by omega), BitVec.msb_eq_getLsbD_last, sext16]
  split <;> rfl

/-- Adding the sign-extended byte is adding the signed integer mod 2^16. -/
theorem add_sext16 (w : Word) (e : Byte) : w + sext16 e = BitVec.ofInt 16 ((w.toNat : Int) + e.toInt) := by
  rw [sext16_eq_signExtend, BitVec.signExtend, BitVec.ofInt_add, BitVec.ofInt_natCast, BitVec.ofNat_toNat,
    BitVec.setWidth_eq]

theorem addSp_res (e : Byte) (s : State) : (addSp s.regs.sp e).res = spPlus e s := add_sext16 ..

theorem State.setFlags_eq_withF (z n h c : Bool) (s : State) : s.setFlags z n h c = withF (flagsByte z n h c) s := by
  obtain ⟨-, -, -, -, -, -, -, hset, -⟩ := flagLayout 0#8 z n h c s
  exact hset

theorem State.setFlags_addSp (e : Byte) (s t : State) :
    t.setFlags false false (addSp s.regs.sp e).h (addSp s.regs.sp e).c = withF (flagsOfAddSp e s) t :=
  State.setFlags_eq_withF ..

theorem exec_ldHlSpE8 (e : Byte) (s : State) :
    exec (.ldHlSpE8 e) s = .next (withF (flagsOfAddSp e s) (s.setHl (spPlus e s))) := by
  rw [← addSp_res, ← State.setFlags_addSp]
  rfl

/-! ### Stores of a word (20_memory.md R77, 41_load16_stack.md R168) -/

theorem exec_ldMemA16Sp (a16 : Word) (s : State) :
    exec (.ldMemA16Sp a16) s =
      .next (busWrite (a16 + 1#16) (s.regs.sp.extractLsb' 8 8) (busWrite a16 (s.regs.sp.extractLsb' 0 8) s)) := by
  obtain ⟨-, hstore, -⟩ := wordsAndStack a16 s.regs.sp s
  exact congrArg Host.Outcome.next hstore

theorem exec_pushRr (q : StackPair) (s : State) : exec (.pushRr q) s = .next (pushed (s.stackPair q) s) :=
  congrArg Host.Outcome.next (push16_eq ..)

/-! ### The statement -/

/-- Settles O46: `LD (a16),SP` and PUSH are O41's stores, `LD HL,SP+e8` is the signed addition with its flags, and the
other forms are the register writes they name. -/
theorem load16AndStackResults : Obligations.Load16AndStackResults := fun _ q w e8 s =>
  ⟨rfl, exec_ldMemA16Sp w s, rfl, exec_ldHlSpE8 e8 s, exec_pushRr q s, rfl, rfl⟩

end Sys2Proof.Machine
end


section
/-! SUPPORT. Proofs of the statements about 8-bit arithmetic. What each accumulator operation leaves is said once
(`accumulate_add` to `accumulate_or`) and serves all its operand forms. `DAA` is worked out on natural numbers
(`daaResult`, `daaHigh`); that it is decimal rests on `packed_add`, the sum of packed digits. -/

namespace Sys2Proof.Machine

/-! ### Result and flags of an addition, a subtraction and a logic operation (42_alu8.md R181-R183) -/

theorem ofNat_beq_zero (n : Nat) : (BitVec.ofNat 8 n == 0) = decide (n % 256 = 0) :=
  decide_eq_decide.2 BitVec.toNat_inj.symm

theorem ofInt_beq_zero (d : Int) : (BitVec.ofInt 8 d == 0) = decide (d % 256 = 0) := by
  refine decide_eq_decide.2 ?_
  rw [← BitVec.toNat_inj, BitVec.toNat_ofInt]
  change (d % 256).toNat = 0 ↔ d % 256 = 0
  omega

theorem setReg_setAluFlags (o : Alu8) (s : State) :
    (s.setReg .a o.res).setAluFlags o = withAF o.res (flagsByte o.z o.n o.h o.c) s :=
  State.setFlags_eq_withF ..

/-- `add8` narrows at the end, and its flags are those of the sum of the integers. -/
theorem setAluFlags_add8 (x : Byte) (cin : Bool) (s : State) :
    (s.setReg .a (add8 s.regs.a x cin).res).setAluFlags (add8 s.regs.a x cin) = afterAdd x cin s := by
  have hz : (add8 s.regs.a x cin).z = decide ((s.regs.a.toNat + x.toNat + cin.toNat) % 256 = 0) := ofNat_beq_zero _
  rw [setReg_setAluFlags, hz]
  rfl

/-- The model compares natural numbers where the statement takes the sign of a difference. -/
theorem flagsByte_sub8 (x : Byte) (cin : Bool) (s : State) :
    flagsByte (sub8 s.regs.a x cin).z (sub8 s.regs.a x cin).n (sub8 s.regs.a x cin).h (sub8 s.regs.a x cin).c =
      flagsOfSub x cin s := by
  have hz : (sub8 s.regs.a x cin).z = decide (((s.regs.a.toNat : Int) - x.toNat - cin.toNat) % 256 = 0) :=
    ofInt_beq_zero _
  have hh : (sub8 s.regs.a x cin).h =
      decide ((s.regs.a.toNat : Int) % 16 - (x.toNat : Int) % 16 - cin.toNat < 0) :=
    decide_eq_decide.2 (by unfold nibble; omega)
  have hc : (sub8 s.regs.a x cin).c = decide ((s.regs.a.toNat : Int) - x.toNat - cin.toNat < 0) :=
    decide_eq_decide.2 (by omega)
  rw [hz, hh, hc]
  rfl

theorem setAluFlags_sub8 (x : Byte) (cin : Bool) (s : State) :
    (s.setReg .a (sub8 s.regs.a x cin).res).setAluFlags (sub8 s.regs.a x cin) = afterSub x cin s := by
  rw [setReg_setAluFlags, flagsByte_sub8]
  rfl

theorem setAluFlags_compare (x : Byte) (s : State) : s.setAluFlags (sub8 s.regs.a x false) = afterCompare x s := by
  rw [State.setAluFlags, State.setFlags_eq_withF, flagsByte_sub8]
  rfl

theorem setAluFlags_logic8 (r : Byte) (h : Bool) (s : State) :
    (s.setReg .a (logic8 r h).res).setAluFlags (logic8 r h) = afterLogic r h s :=
  setReg_setAluFlags ..

/-! ### The eight accumulator operations (42_alu8.md R184-R207) -/

theorem accumulate_add (x : Byte) (s : State) : accumulate .add x s = afterAdd x false s := setAluFlags_add8 ..

theorem accumulate_adc (x : Byte) (s : State) : accumulate .adc x s = afterAdd x (s.regs.f.getLsbD 4) s :=
  setAluFlags_add8 ..

theorem accumulate_sub (x : Byte) (s : State) : accumulate .sub x s = afterSub x false s := setAluFlags_sub8 ..

theorem accumulate_sbc (x : Byte) (s : State) : accumulate .sbc x s = afterSub x (s.regs.f.getLsbD 4) s :=
  setAluFlags_sub8 ..

theorem accumulate_cp (x : Byte) (s : State) : accumulate .cp x s = afterCompare x s := setAluFlags_compare ..

theorem accumulate_and (x : Byte) (s : State) : accumulate .and x s = afterLogic (s.regs.a &&& x) true s :=
  setAluFlags_logic8 ..

theorem accumulate_xor (x : Byte) (s : State) : accumulate .xor x s = afterLogic (s.regs.a ^^^ x) false s :=
  setAluFlags_logic8 ..

theorem accumulate_or (x : Byte) (s : State) : accumulate .or x s = afterLogic (s.regs.a ||| x) false s :=
  setAluFlags_logic8 ..

/-- Settles O47: all three operand forms are the accumulator operation on their operand. -/
theorem addAdcResults : Obligations.AddAdcResults := fun _ _ s =>
  have hadd x := congrArg Host.Outcome.next (accumulate_add x s)
  have hadc x := congrArg Host.Outcome.next (accumulate_adc x s)
  ⟨hadd _, hadd _, hadd _, hadc _, hadc _, hadc _⟩

/-- Settles O48: all three operand forms are the accumulator operation on their operand. -/
theorem subSbcCpResults : Obligations.SubSbcCpResults := fun _ _ s =>
  have hsub x := congrArg Host.Outcome.next (accumulate_sub x s)
  have hsbc x := congrArg Host.Outcome.next (accumulate_sbc x s)
  have hcp x := congrArg Host.Outcome.next (accumulate_cp x s)
  ⟨hsub _, hsub _, hsub _, hsbc _, hsbc _, hsbc _, hcp _, hcp _, hcp _⟩

/-- Settles O49: all three operand forms are the accumulator operation on their operand. -/
theorem logicResults : Obligations.LogicResults := fun _ _ s =>
  have hand x := congrArg Host.Outcome.next (accumulate_and x s)
  have hxor x := congrArg Host.Outcome.next (accumulate_xor x s)
  have hor x := congrArg Host.Outcome.next (accumulate_or x s)
  ⟨hand _, hand _, hand _, hxor _, hxor _, hxor _, hor _, hor _, hor _⟩

/-! ### INC, DEC and CPL (42_alu8.md R208-R211, R213) -/

theorem setAluFlags_inc8 (v : Byte) (s t : State) : t.setAluFlags (inc8 v s.fC) = withF (flagsOfInc v s) t := by
  have hz : (inc8 v s.fC).z = decide ((v.toNat + 1) % 256 = 0) := decide_eq_decide.2 (by bv_omega)
  rw [State.setAluFlags, State.setFlags_eq_withF, hz]
  rfl

theorem setAluFlags_dec8 (v : Byte) (s t : State) : t.setAluFlags (dec8 v s.fC) = withF (flagsOfDec v s) t := by
  have hz : (dec8 v s.fC).z = decide (v.toNat = 1) := decide_eq_decide.2 (by bv_omega)
  rw [State.setAluFlags, State.setFlags_eq_withF, hz]
  rfl

theorem exec_incR (r : Reg8) (s : State) :
    exec (.incR r) s = .next (withF (flagsOfInc (s.reg r) s) (s.setReg r (s.reg r + 1#8))) :=
  congrArg Host.Outcome.next (setAluFlags_inc8 ..)

theorem exec_incMemHl (s : State) :
    exec .incMemHl s = .next (withF (flagsOfInc (busRead s.hl s) s) (busWrite s.hl (busRead s.hl s + 1#8) s)) :=
  congrArg Host.Outcome.next (setAluFlags_inc8 ..)

theorem exec_decR (r : Reg8) (s : State) :
    exec (.decR r) s = .next (withF (flagsOfDec (s.reg r) s) (s.setReg r (s.reg r - 1#8))) :=
  congrArg Host.Outcome.next (setAluFlags_dec8 ..)

theorem exec_decMemHl (s : State) :
    exec .decMemHl s = .next (withF (flagsOfDec (busRead s.hl s) s) (busWrite s.hl (busRead s.hl s - 1#8) s)) :=
  congrArg Host.Outcome.next (setAluFlags_dec8 ..)

theorem exec_cpl (s : State) :
    exec .cpl s =
      .next (withAF (~~~ s.regs.a) (flagsByte (s.regs.f.getLsbD 7) true true (s.regs.f.getLsbD 4)) s) := by
  rw [← BitVec.xor_allOnes]
  exact congrArg Host.Outcome.next (State.setFlags_eq_withF ..)

/-! ### DAA (42_alu8.md R212) -/

/-- Whether `DAA` moves the upper digit; also the Carry it leaves. -/
def daaHigh (a : Nat) (n c : Bool) : Bool := if n then c else c || decide (a > 0x99)

/-- Whether `DAA` moves the lower digit. -/
def daaLow (a : Nat) (n h : Bool) : Bool := if n then h else h || decide (a % 16 > 9)

/-- How far `DAA` moves A, up after an addition and down after a subtraction. -/
def daaAmount (a : Nat) (n h c : Bool) : Nat :=
  (if daaHigh a n c then 0x60 else 0) + (if daaLow a n h then 0x06 else 0)

/-- A after `DAA`, as a number. -/
def daaResult (a : Nat) (n h c : Bool) : Nat :=
  if n then (a + 512 - daaAmount a n h c) % 256 else (a + daaAmount a n h c) % 256

theorem afterDaa_eq (s : State) :
    afterDaa s = withAF (BitVec.ofNat 8 (daaResult s.regs.a.toNat s.fN s.fH s.fC))
      (flagsByte (daaResult s.regs.a.toNat s.fN s.fH s.fC = 0) s.fN false (daaHigh s.regs.a.toNat s.fN s.fC)) s :=
  rfl

theorem daaResult_lt (a : Nat) (n h c : Bool) : daaResult a n h c < 256 := by
  unfold daaResult
  split <;> exact Nat.mod_lt _ (by omega)

theorem addDigits_eq (a : Byte) (high low : Bool) :
    (if low then (if high then a + 0x60#8 else a) + 0x06#8 else if high then a + 0x60#8 else a) =
      BitVec.ofNat 8 ((a.toNat + ((if high then 0x60 else 0) + (if low then 0x06 else 0))) % 256) := by
  cases high <;> cases low <;> simp only [Bool.false_eq_true, ↓reduceIte] <;> bv_omega

theorem subDigits_eq (a : Byte) (high low : Bool) :
    (if low then (if high then a - 0x60#8 else a) - 0x06#8 else if high then a - 0x60#8 else a) =
      BitVec.ofNat 8 ((a.toNat + 512 - ((if high then 0x60 else 0) + (if low then 0x06 else 0))) % 256) := by
  cases high <;> cases low <;> simp only [Bool.false_eq_true, ↓reduceIte] <;> bv_omega

/-- The model moves the digits one after the other, and the statement both at once. -/
theorem daaAdjust_eq (a : Byte) (n h c : Bool) :
    daaAdjust a n h c = (BitVec.ofNat 8 (daaResult a.toNat n h c), daaHigh a.toNat n c) := by
  cases n with
  | false => exact Prod.ext (addDigits_eq a (daaHigh a.toNat false c) (daaLow a.toNat false h)) rfl
  | true => exact Prod.ext (subDigits_eq a c h) rfl

/-- The result is below 256, so Z tells whether it is 0 before it is narrowed. -/
theorem exec_daa (s : State) : exec .daa s = .next (afterDaa s) := by
  have hz := ofNat_beq_zero (daaResult s.regs.a.toNat s.fN s.fH s.fC)
  rw [Nat.mod_eq_of_lt (daaResult_lt ..)] at hz
  simp only [exec, execDaa, daaAdjust_eq, hz, State.setFlags_eq_withF, afterDaa_eq]
  rfl

/-- Settles O50: the flags come from the byte read before any store; `SCF` and `CCF` are one write of F. -/
theorem incDecAdjustResults : Obligations.IncDecAdjustResults := fun r s =>
  ⟨exec_incR r s, exec_incMemHl s, exec_decR r s, exec_decMemHl s, exec_daa s, exec_cpl s,
    congrArg Host.Outcome.next (State.setFlags_eq_withF ..), congrArg Host.Outcome.next (State.setFlags_eq_withF ..)⟩

/-! ### DAA is decimal (42_alu8.md R212, 95_test_vectors.md 3.6) -/

theorem flagsByte_bits (z n h c : Bool) :
    (flagsByte z n h c).getLsbD 7 = z ∧ (flagsByte z n h c).getLsbD 6 = n ∧ (flagsByte z n h c).getLsbD 5 = h ∧
      (flagsByte z n h c).getLsbD 4 = c := by
  cases z <;> cases n <;> cases h <;> cases c <;> decide

/-- The packed digits of `k` as a number: `bcd k` before it is narrowed to a byte. -/
def packed (k : Nat) : Nat := 16 * (k / 10) + k % 10

theorem bcd_toNat {k : Nat} (h : k < 100) : (bcd k).toNat = packed k := Nat.mod_eq_of_lt (by omega)

theorem packed_le {k : Nat} (h : k < 100) : packed k ≤ 153 := by
  unfold packed
  omega

theorem packed_lt_iff {x y : Nat} : packed x < packed y ↔ x < y := by
  unfold packed
  omega

theorem packed_mod (k : Nat) : packed k % 16 = k % 10 := by
  unfold packed
  omega

/-- Six for each decimal digit that carries in `x + y`: the unused values of its packed digit. -/
def carryAdjust (x y : Nat) : Nat :=
  (if 100 ≤ x + y then 0x60 else 0) + (if 10 ≤ x % 10 + y % 10 then 0x06 else 0)

theorem carryAdjust_le (x y : Nat) : carryAdjust x y ≤ 0x66 := by
  unfold carryAdjust
  split <;> split <;> decide

/-- Packed digits add like decimal numbers once each digit that carries is moved past its unused values. -/
theorem packed_add {x y : Nat} (hx : x < 100) (hy : y < 100) :
    packed x + packed y + carryAdjust x y = packed ((x + y) % 100) + if 100 ≤ x + y then 256 else 0 := by
  unfold packed carryAdjust
  split <;> split <;> omega

/-- `DAA` after an addition moves the upper digit exactly when the decimal sum has a third digit: by Carry when the
packed sum leaves the byte, by the comparison with 0x99 when it does not. -/
theorem daaHigh_add {x y : Nat} (hx : x < 100) (hy : y < 100) :
    daaHigh ((packed x + packed y) % 256) false (packed x + packed y > 255) = decide (100 ≤ x + y) := by
  have hsum := packed_add hx hy
  have hle := packed_le (Nat.mod_lt (x + y) (by omega : 0 < 100))
  have hadjust := carryAdjust_le x y
  rw [daaHigh, if_neg Bool.false_ne_true, ← Bool.decide_or]
  refine decide_eq_decide.2 ?_
  split at hsum <;> omega

/-- It moves the lower digit exactly when the lower decimal digits carry. -/
theorem daaLow_add (x y : Nat) :
    daaLow ((packed x + packed y) % 256) false (x % 10 + y % 10 > 15) = decide (10 ≤ x % 10 + y % 10) := by
  have hx := packed_mod x
  have hy := packed_mod y
  rw [daaLow, if_neg Bool.false_ne_true, ← Bool.decide_or]
  exact decide_eq_decide.2 (by omega)

/-- So A moves by `carryAdjust`, and `packed_add` says where to. -/
theorem daaResult_add {x y : Nat} (hx : x < 100) (hy : y < 100) :
    daaResult ((packed x + packed y) % 256) false (x % 10 + y % 10 > 15) (packed x + packed y > 255) =
      packed ((x + y) % 100) := by
  have hsum := packed_add hx hy
  have hle := packed_le (Nat.mod_lt (x + y) (by omega : 0 < 100))
  have hamount : daaAmount ((packed x + packed y) % 256) false (x % 10 + y % 10 > 15) (packed x + packed y > 255) =
      carryAdjust x y := by
    simp only [daaAmount, daaHigh_add hx hy, daaLow_add, decide_eq_true_eq, carryAdjust]
  rw [daaResult, if_neg Bool.false_ne_true, hamount]
  split at hsum <;> omega

/-- A subtraction undoes the addition of `y` to the difference: its borrows are the carries of that addition. -/
theorem daaResult_sub {x y : Nat} (hx : x < 100) (hy : y < 100) :
    daaResult ((packed x + 256 - packed y) % 256) true (x % 10 < y % 10) (x < y) = packed ((x + 100 - y) % 100) := by
  generalize hz : (x + 100 - y) % 100 = z
  have hback : (z + y) % 100 = x := by omega
  have hhigh : 100 ≤ z + y ↔ x < y := by omega
  have hlow : 10 ≤ z % 10 + y % 10 ↔ x % 10 < y % 10 := by omega
  have hsum := packed_add (show z < 100 by omega) hy
  rw [hback] at hsum
  have hlez := packed_le (show z < 100 by omega)
  have hley := packed_le hy
  have hadjust := carryAdjust_le z y
  have hamount : daaAmount ((packed x + 256 - packed y) % 256) true (x % 10 < y % 10) (x < y) = carryAdjust z y := by
    simp only [daaAmount, daaHigh, daaLow, ↓reduceIte, decide_eq_true_eq, carryAdjust, hhigh, hlow]
  rw [daaResult, if_pos rfl, hamount]
  split at hsum <;> omega

/-- `DAA` on a known A and known flags. -/
theorem exec_daa_of_flags {s : State} {a : Nat} {z n h c : Bool} (ha : s.regs.a.toNat = a)
    (hf : s.regs.f = flagsByte z n h c) :
    ∃ u, exec .daa s = .next u ∧ u.regs.a = BitVec.ofNat 8 (daaResult a n h c) ∧
      u.regs.f.getLsbD 4 = daaHigh a n c := by
  obtain ⟨-, hn, hh, hc⟩ := flagsByte_bits z n h c
  have hfN : s.fN = n := by rw [State.fN, hf, hn]
  have hfH : s.fH = h := by rw [State.fH, hf, hh]
  have hfC : s.fC = c := by rw [State.fC, hf, hc]
  obtain ⟨-, -, -, hcarry⟩ := flagsByte_bits (daaResult a n h c = 0) n false (daaHigh a n c)
  refine ⟨_, exec_daa s, ?_⟩
  rw [afterDaa_eq, ha, hfN, hfH, hfC]
  exact ⟨rfl, hcarry⟩

/-- A and F after `ADD A,bcd(y)` on `bcd(x)`. -/
theorem afterAdd_bcd {x y : Nat} {s : State} (hx : x < 100) (hy : y < 100) (ha : s.regs.a = bcd x) :
    (afterAdd (bcd y) false s).regs.a.toNat = (packed x + packed y) % 256 ∧
      ∃ z, (afterAdd (bcd y) false s).regs.f =
        flagsByte z false (x % 10 + y % 10 > 15) (packed x + packed y > 255) := by
  simp only [afterAdd, withAF, ha, bcd_toNat hx, bcd_toNat hy, packed_mod, Bool.toNat_false, Nat.add_zero]
  exact ⟨BitVec.toNat_ofNat .., _, rfl⟩

/-- A and F after `SUB A,bcd(y)` on `bcd(x)`: packed digits are ordered like the numbers they stand for. -/
theorem afterSub_bcd {x y : Nat} {s : State} (hx : x < 100) (hy : y < 100) (ha : s.regs.a = bcd x) :
    (afterSub (bcd y) false s).regs.a.toNat = (packed x + 256 - packed y) % 256 ∧
      ∃ z, (afterSub (bcd y) false s).regs.f = flagsByte z true (x % 10 < y % 10) (x < y) := by
  have hxm := packed_mod x
  have hym := packed_mod y
  have hle := packed_le hy
  have hlow : ((packed x : Int) % 16 - (packed y : Int) % 16 < 0) ↔ x % 10 < y % 10 := by omega
  have hhigh : ((packed x : Int) - packed y < 0) ↔ x < y := by rw [← packed_lt_iff]; omega
  simp only [afterSub, withAF, flagsOfSub, ha, bcd_toNat hx, bcd_toNat hy, Bool.toNat_false, Nat.cast_zero,
    Int.sub_zero, hlow, hhigh]
  refine ⟨?_, _, rfl⟩
  rw [BitVec.toNat_ofInt]
  omega

/-- Settles O51: `DAA` on the A and the flags that the addition or the subtraction leaves. -/
theorem daaIsDecimal : Obligations.DaaIsDecimal := by
  intro x y s hx hy ha
  constructor
  · obtain ⟨hA, z, hF⟩ := afterAdd_bcd hx hy ha
    obtain ⟨u, hu, hres, hc⟩ := exec_daa_of_flags hA hF
    rw [daaResult_add hx hy] at hres
    rw [daaHigh_add hx hy] at hc
    exact ⟨_, u, congrArg Host.Outcome.next (accumulate_add ..), hu, hres, hc⟩
  · obtain ⟨hA, z, hF⟩ := afterSub_bcd hx hy ha
    obtain ⟨u, hu, hres, hc⟩ := exec_daa_of_flags hA hF
    rw [daaResult_sub hx hy] at hres
    exact ⟨_, u, congrArg Host.Outcome.next (accumulate_sub ..), hu, hres, hc⟩

end Sys2Proof.Machine
end


section
/-! SUPPORT. Proof of the statement about what an instruction leaves unchanged in the CPU. Each update of the state
keeps `Writes ps` when the places it writes are among `ps`; an instruction is a few updates. -/

namespace Sys2Proof.Machine

/-! ### Flags an operation keeps -/

@[simp] theorem State.setReg_fZ (r : Reg8) (v : Byte) (s : State) : (s.setReg r v).fZ = s.fZ := by
  rw [State.fZ, State.setReg_f, State.fZ]

@[simp] theorem State.setReg_fN (r : Reg8) (v : Byte) (s : State) : (s.setReg r v).fN = s.fN := by
  rw [State.fN, State.setReg_f, State.fN]

@[simp] theorem State.setReg_fC (r : Reg8) (v : Byte) (s : State) : (s.setReg r v).fC = s.fC := by
  rw [State.fC, State.setReg_f, State.fC]

@[simp] theorem busWrite_fC (a : Word) (v : Byte) (s : State) : (busWrite a v s).fC = s.fC := by
  rw [State.fC, busWrite_regs, State.fC]

@[simp] theorem State.setHl_fZ (v : Word) (s : State) : (s.setHl v).fZ = s.fZ := rfl

@[simp] theorem inc8_c (v : Byte) (fC : Bool) : (inc8 v fC).c = fC := rfl

@[simp] theorem dec8_c (v : Byte) (fC : Bool) : (dec8 v fC).c = fC := rfl

/-! ### Places of the CPU -/

theorem Place.same_trans {p : Place} {s t u : State} (hst : p.same s t) (htu : p.same t u) : p.same s u := by
  cases p <;> exact Eq.trans htu hst

theorem SameDevices.trans {s t u : State} (hst : SameDevices s t) (htu : SameDevices t u) : SameDevices s u := by
  obtain ⟨hboot, hcart, htotal, hly, hmode, hcycles, hwork, hframes, hrom⟩ := hst
  obtain ⟨hboot', hcart', htotal', hly', hmode', hcycles', hwork', hframes', hrom'⟩ := htu
  exact ⟨hboot'.trans hboot, hcart'.trans hcart, htotal'.trans htotal, hly'.trans hly, hmode'.trans hmode,
    hcycles'.trans hcycles, hwork'.trans hwork, hframes'.trans hframes, fun k hk => (hrom' k hk).trans (hrom k hk)⟩

/-- From `s` to `t` nothing was written but the places `ps`, IF, IE, the registers of the PPU and the cells of RAM. -/
structure Writes (ps : List Place) (s t : State) : Prop where
  same : ∀ p : Place, p ∉ ps → p.same s t
  devices : SameDevices s t

/-! A side condition says that the place written is one of `ps`; for an instruction it is read off `written`. -/

namespace Writes

variable {ps : List Place} {s t u : State}

theorem trans (hst : Writes ps s t) (htu : Writes ps t u) : Writes ps s u :=
  ⟨fun p hp => Place.same_trans (hst.same p hp) (htu.same p hp), hst.devices.trans htu.devices⟩

theorem refl : Writes ps s s :=
  ⟨fun p _ => by cases p <;> rfl, rfl, rfl, rfl, rfl, rfl, rfl, rfl, rfl, fun _ _ => rfl⟩

theorem setReg {r : Reg8} {v : Byte} (ht : Writes ps s t) (hr : .reg r ∈ ps := by simp [written]) :
    Writes ps s (t.setReg r v) := by
  refine ht.trans ⟨fun p hp => ?_, by simp [SameDevices]⟩
  have hne : p ≠ .reg r := fun h => hp (h ▸ hr)
  cases p with
  | reg r' => exact State.reg_setReg_ne r r' v t fun h => hne (h ▸ rfl)
  | _ => simp [Place.same]

/-- A flag that is not one of `ps` may be written with the value it has. -/
theorem setFlags {z n h c : Bool} (ht : Writes ps s t)
    (hz : .flagZ ∈ ps ∨ z = t.fZ := by simp [written]) (hn : .flagN ∈ ps ∨ n = t.fN := by simp [written])
    (hh : .flagH ∈ ps ∨ h = t.fH := by simp [written]) (hc : .flagC ∈ ps ∨ c = t.fC := by simp [written]) :
    Writes ps s (t.setFlags z n h c) := by
  obtain ⟨hpz, hpn, hph, hpc⟩ := packFlags_bits z n h c
  refine ht.trans ⟨fun p hp => ?_, by simp [SameDevices]⟩
  cases p with
  | flagZ => rw [Place.same, State.setFlags_f, hpz]; exact hz.resolve_left hp
  | flagN => rw [Place.same, State.setFlags_f, hpn]; exact hn.resolve_left hp
  | flagH => rw [Place.same, State.setFlags_f, hph]; exact hh.resolve_left hp
  | flagC => rw [Place.same, State.setFlags_f, hpc]; exact hc.resolve_left hp
  | _ => simp [Place.same]

theorem setF {v : Byte} (ht : Writes ps s t) (hf : allFlags ⊆ ps := by simp [written]) :
    Writes ps s (t.setF v) := by
  refine ht.trans ⟨fun p hp => ?_, by simp [SameDevices]⟩
  have hmem : p ∉ allFlags := fun h => hp (hf h)
  cases p <;> simp [Place.same, allFlags] at hmem ⊢

theorem setSp {v : Word} (ht : Writes ps s t) (hsp : .sp ∈ ps := by simp [written]) :
    Writes ps s (t.setSp v) := by
  refine ht.trans ⟨fun p hp => ?_, by simp [SameDevices]⟩
  cases p with
  | sp => exact absurd hsp hp
  | _ => simp [Place.same]

theorem setPc {v : Word} (ht : Writes ps s t) (hpc : pcPlaces ⊆ ps := by simp [written]) :
    Writes ps s (t.setPc v) := by
  refine ht.trans ⟨fun p hp => ?_, by simp [SameDevices]⟩
  have hmem : p ∉ pcPlaces := fun h => hp (hpc h)
  cases p <;> simp [Place.same, pcPlaces] at hmem ⊢

theorem store {a : Word} {v : Byte} (ht : Writes ps s t) : Writes ps s (busWrite a v t) := by
  obtain ⟨-, -, -, -, -, -, -, -, hdevices⟩ := storeFrame a v t
  refine ht.trans ⟨fun p _ => ?_, hdevices⟩
  cases p <;> simp [Place.same]

/-- So may a place that is no register. -/
theorem control {i hlt stp : Bool} {n : Nat} {c : Option FatalCondition} (ht : Writes ps s t)
    (hime : .ime ∈ ps ∨ i = t.ime := by simp [written])
    (hdelay : .imeDelay ∈ ps ∨ n = t.imeDelay := by simp [written])
    (hhalted : .halted ∈ ps ∨ hlt = t.halted := by simp [written])
    (hstopped : .stopped ∈ ps ∨ stp = t.stopped := by simp [written])
    (hfault : .fault ∈ ps ∨ c = t.fault := by simp [written]) :
    Writes ps s { t with ime := i, imeDelay := n, halted := hlt, stopped := stp, fault := c } := by
  refine ht.trans ⟨fun p hp => ?_, rfl, rfl, rfl, rfl, rfl, rfl, rfl, rfl, fun _ _ => rfl⟩
  cases p with
  | ime => exact hime.resolve_left hp
  | imeDelay => exact hdelay.resolve_left hp
  | halted => exact hhalted.resolve_left hp
  | stopped => exact hstopped.resolve_left hp
  | fault => exact hfault.resolve_left hp
  | _ => rfl

theorem setHl {v : Word} (ht : Writes ps s t) (hh : .reg .h ∈ ps := by simp [written])
    (hl : .reg .l ∈ ps := by simp [written]) : Writes ps s (t.setHl v) :=
  show Writes ps s ((t.setReg .h (hi v)).setReg .l (lo v)) from (ht.setReg hh).setReg hl

theorem setPair {rr : Pair} {v : Word} (ht : Writes ps s t) (hsub : pairPlaces rr ⊆ ps := by simp [written]) :
    Writes ps s (t.setPair rr v) := by
  cases rr with
  | bc =>
    change Writes ps s ((t.setReg .b (hi v)).setReg .c (lo v))
    exact (ht.setReg (hsub (by decide))).setReg (hsub (by decide))
  | de =>
    change Writes ps s ((t.setReg .d (hi v)).setReg .e (lo v))
    exact (ht.setReg (hsub (by decide))).setReg (hsub (by decide))
  | hl => exact ht.setHl (hsub (by decide)) (hsub (by decide))
  | sp => exact ht.setSp (hsub (by decide))

theorem setAf {v : Word} (ht : Writes ps s t) (ha : .reg .a ∈ ps := by simp [written])
    (hf : allFlags ⊆ ps := by simp [written]) : Writes ps s (t.setAf v) := (ht.setReg ha).setF hf

theorem setStackPair {rr : StackPair} {v : Word} (ht : Writes ps s t)
    (hsub : stackPairPlaces rr ⊆ ps := by simp [written]) : Writes ps s (t.setStackPair rr v) := by
  cases rr with
  | bc => exact ht.setPair (show pairPlaces .bc ⊆ ps from hsub)
  | de => exact ht.setPair (show pairPlaces .de ⊆ ps from hsub)
  | hl => exact ht.setPair (show pairPlaces .hl ⊆ ps from hsub)
  | af => exact ht.setAf (hsub (by decide)) fun _ h => hsub (List.mem_cons_of_mem _ h)

theorem accumulate {op : AluOp} {x : Byte} (ha : .reg .a ∈ ps := by simp [written])
    (hf : allFlags ⊆ ps := by simp [written]) : Writes ps s (accumulate op x s) := by
  obtain ⟨a, z, n, h, c, heq, -⟩ := accumulate_frame op x s
  rw [heq]
  exact (refl.setReg ha).setF hf

theorem push16 {v : Word} (hsp : .sp ∈ ps := by simp [written]) : Writes ps s (push16 v s) := by
  rw [push16_eq]
  exact refl.store.store.setSp hsp

theorem callTo {target : Word} (hsp : .sp ∈ ps := by simp [written])
    (hpc : pcPlaces ⊆ ps := by simp [written, pcPlaces]) : Writes ps s (callTo target s) := (push16 hsp).setPc hpc

theorem returnTo (hsp : .sp ∈ ps := by simp [written])
    (hpc : pcPlaces ⊆ ps := by simp [written, pcPlaces]) : Writes ps s (returnTo s) := (refl.setSp hsp).setPc hpc

theorem returnFromInterrupt (hsp : .sp ∈ ps := by simp [written])
    (hpc : pcPlaces ⊆ ps := by simp [written, pcPlaces]) (hime : .ime ∈ ps := by simp [written])
    (hdelay : .imeDelay ∈ ps := by simp [written]) :
    Writes ps s (returnFromInterrupt s) :=
  (returnTo hsp hpc).control (.inl hime) (.inl hdelay) (.inr rfl) (.inr rfl) (.inr rfl)

theorem transferIf {cc : Cond} {taken : State → State} (ht : Writes ps s (taken s)) :
    Writes ps s (transferIf cc taken s) := by
  unfold Machine.transferIf
  split
  · exact ht
  · exact refl

end Writes

/-! ### Every instruction -/

theorem written_rotReg (n : Nat) (r : Reg8) : written (rotReg n r) = .reg r :: allFlags := by
  unfold rotReg
  split <;> rfl

theorem written_rotMemHl (n : Nat) : written (rotMemHl n) = allFlags := by
  unfold rotMemHl
  split <;> rfl

/-- 0xCB writes what its extended instruction does. -/
theorem written_prefixCb (op2 : Byte) : written (.prefixCb op2) = written (decodeExtended op2) := by
  simp only [written, decodeExtended]
  cases Reg8.ofCode (fieldZ op2) with
  | some r =>
    rcases fieldX op2 with _ | _ | _ | n
    · exact (written_rotReg ..).symm
    all_goals rfl
  | none =>
    rcases fieldX op2 with _ | _ | _ | n
    · exact (written_rotMemHl ..).symm
    all_goals rfl

/-- The extended space. -/
theorem execPrefixCb_writes (op2 : Byte) (s : State) :
    ∃ t, execPrefixCb op2 s = .next t ∧ Writes (written (.prefixCb op2)) s t := by
  rw [written_prefixCb]
  unfold execPrefixCb
  generalize decodeExtended op2 = i
  split
  iterate 8 exact ⟨_, rfl, Writes.refl.setReg.setF⟩
  iterate 8 exact ⟨_, rfl, Writes.refl.store.setF⟩
  iterate 2 exact ⟨_, rfl, Writes.refl.setFlags⟩
  · exact ⟨_, rfl, Writes.refl.setReg⟩
  · exact ⟨_, rfl, Writes.refl.store⟩
  · exact ⟨_, rfl, Writes.refl.setReg⟩
  · exact ⟨_, rfl, Writes.refl.store⟩
  · exact ⟨_, rfl, .refl⟩

/-- Every instruction completes, and writes no other place. -/
theorem exec_writes (i : Instr) (s : State) : ∃ t, exec i s = .next t ∧ Writes (written i) s t :=
  match i with
  | .nop => ⟨_, rfl, .refl⟩
  | .di | .ei | .halt | .stop _ | .illegal _ => ⟨_, rfl, Writes.refl.control⟩
  | .prefixCb op2 => execPrefixCb_writes op2 s
  -- loads and stores
  | .ldRrD16 .. | .incRr _ | .decRr _ => ⟨_, rfl, Writes.refl.setPair⟩
  | .ldRD8 .. | .ldRR .. | .ldRMemHl _ | .ldAMemBc | .ldAMemDe | .ldAMemA16 _ | .ldhAMemA8 _ | .ldAMemC | .resR ..
  | .setR .. => ⟨_, rfl, Writes.refl.setReg⟩
  | .ldMemBcA | .ldMemDeA | .ldMemHlD8 _ | .ldMemHlR _ | .ldMemA16A _ | .ldhMemA8A _ | .ldMemCA | .resMemHl _
  | .setMemHl _ => ⟨_, rfl, Writes.refl.store⟩
  | .ldMemA16Sp _ => ⟨_, rfl, Writes.refl.store.store⟩
  | .ldMemHliA | .ldMemHldA => ⟨_, rfl, Writes.refl.store.setHl⟩
  | .ldAMemHli | .ldAMemHld => ⟨_, rfl, Writes.refl.setReg.setHl⟩
  | .ldSpHl => ⟨_, rfl, Writes.refl.setSp⟩
  | .pushRr _ => ⟨_, rfl, .push16⟩
  | .popRr _ => ⟨_, rfl, Writes.refl.setSp.setStackPair⟩
  | .popAf => ⟨_, rfl, Writes.refl.setSp.setAf⟩
  -- arithmetic
  | .addAR _ | .addAMemHl | .addAD8 _ | .adcAR _ | .adcAMemHl | .adcAD8 _ | .subAR _ | .subAMemHl | .subAD8 _
  | .sbcAR _ | .sbcAMemHl | .sbcAD8 _ | .andAR _ | .andAMemHl | .andAD8 _ | .xorAR _ | .xorAMemHl | .xorAD8 _
  | .orAR _ | .orAMemHl | .orAD8 _ => ⟨_, rfl, .accumulate⟩
  | .cpAR _ | .cpAMemHl | .cpAD8 _ => ⟨_, rfl, Writes.refl.setF⟩
  | .incR _ | .decR _ | .daa | .cpl => ⟨_, rfl, Writes.refl.setReg.setFlags⟩
  | .incMemHl | .decMemHl => ⟨_, rfl, Writes.refl.store.setFlags⟩
  | .scf | .ccf => ⟨_, rfl, Writes.refl.setFlags⟩
  | .addHlRr _ => ⟨_, rfl, Writes.refl.setHl.setFlags⟩
  | .ldHlSpE8 _ => ⟨_, rfl, Writes.refl.setHl.setF⟩
  | .addSpE8 _ => ⟨_, rfl, Writes.refl.setSp.setF⟩
  -- rotates, shifts and bits
  | .rlca | .rrca | .rla | .rra => ⟨_, rfl, Writes.refl.setReg.setF⟩
  | .rlcR _ | .rrcR _ | .rlR _ | .rrR _ | .slaR _ | .sraR _ | .swapR _ | .srlR _ =>
    ⟨_, rfl, Writes.refl.setReg.setF⟩
  | .rlcMemHl | .rrcMemHl | .rlMemHl | .rrMemHl | .slaMemHl | .sraMemHl | .swapMemHl | .srlMemHl =>
    ⟨_, rfl, Writes.refl.store.setF⟩
  | .bitR .. | .bitMemHl _ => ⟨_, rfl, Writes.refl.setFlags⟩
  -- control transfers
  | .jpA16 _ | .jpHl | .jrE8 _ => ⟨_, rfl, Writes.refl.setPc⟩
  | .jpCcA16 .. | .jrCcE8 .. => ⟨_, rfl, .transferIf Writes.refl.setPc⟩
  | .callA16 _ | .rst _ => ⟨_, rfl, Writes.callTo⟩
  | .callCcA16 .. => ⟨_, rfl, .transferIf Writes.callTo⟩
  | .ret => ⟨_, rfl, .returnTo⟩
  | .reti => ⟨_, rfl, .returnFromInterrupt⟩
  | .retCc _ => ⟨_, rfl, .transferIf .returnTo⟩

/-- Settles O58: what each instruction writes. -/
theorem instructionFrame : Obligations.InstructionFrame := fun i s => by
  obtain ⟨t, ht, hwrites⟩ := exec_writes i s
  exact ⟨t, ht, hwrites.same, hwrites.devices⟩

end Sys2Proof.Machine
end


section
/-! SUPPORT. Proof of the statement about 16-bit arithmetic. The model adds words where the statement adds numbers and
narrows the sum; `addsp` is the one `LD HL,SP+e8` uses. -/

namespace Sys2Proof.Machine

/-- Modulo 2^16, taking 1 away is adding 65535. -/
theorem sub_one_eq_ofNat (w : Word) : w - 1#16 = BitVec.ofNat 16 (w.toNat + 65535) := by bv_omega

theorem addHl_res (hl x : Word) : (addHl hl x).res = BitVec.ofNat 16 (hl.toNat + x.toNat) := BitVec.add_def ..

/-- Z is the flag before the addition; H and C are those of the sum of the integers. -/
theorem State.setFlags_addHl (x : Word) (s t : State) :
    t.setFlags s.fZ false (addHl s.hl x).h (addHl s.hl x).c = withF (flagsOfAddHl x s) t :=
  State.setFlags_eq_withF ..

theorem exec_addHlRr (rr : Pair) (s : State) :
    exec (.addHlRr rr) s =
      .next (withF (flagsOfAddHl (s.pair rr) s) (s.setHl (BitVec.ofNat 16 (s.hl.toNat + (s.pair rr).toNat)))) := by
  rw [← addHl_res, ← State.setFlags_addHl]
  rfl

theorem exec_incRr (rr : Pair) (s : State) :
    exec (.incRr rr) s = .next (s.setPair rr (BitVec.ofNat 16 ((s.pair rr).toNat + 1))) :=
  congrArg (fun v => Host.Outcome.next (s.setPair rr v)) (BitVec.add_def ..)

theorem exec_decRr (rr : Pair) (s : State) :
    exec (.decRr rr) s = .next (s.setPair rr (BitVec.ofNat 16 ((s.pair rr).toNat + 65535))) := by
  rw [← sub_one_eq_ofNat]
  rfl

theorem exec_addSpE8 (e : Byte) (s : State) :
    exec (.addSpE8 e) s = .next (withF (flagsOfAddSp e s) (s.setSp (spPlus e s))) := by
  rw [← addSp_res, ← State.setFlags_addSp]
  rfl

/-- Settles O52: each form is the addition of two integers, narrowed to 16 bits. -/
theorem alu16Results : Obligations.Alu16Results := fun rr e8 s =>
  ⟨exec_addHlRr rr s, exec_incRr rr s, exec_decRr rr s, exec_addSpE8 e8 s⟩

end Sys2Proof.Machine
end

section
/-! SUPPORT. Proofs of the statements about the rotates, the shifts and the bit instructions. The model computes with
masks and shifts where the statements speak of rotations, numbers and single bits: `RotOp.apply_eq_rotated` says so for
the eight functions, `clearBit_eq_withBit` and `setBit_eq_withBit` for one bit. -/

namespace Sys2Proof.Machine

/-! ### The eight functions (44_rotate_shift_bit.md R255) -/

theorem toNat_bitByte (c : Bool) : (bitByte c).toNat = c.toNat := by cases c <;> rfl

theorem getLsbD_bitByte (c : Bool) (i : Nat) : (bitByte c).getLsbD i = (decide (i = 0) && c) := by
  cases c <;> simp [bitByte]

/-- The bit that leaves at the top of a byte. -/
theorem ushiftRight_seven (v : Byte) : v >>> 7 = bitByte (v.getLsbD 7) := by
  refine BitVec.eq_of_getLsbD_eq fun i _ => ?_
  rw [BitVec.getLsbD_ushiftRight, getLsbD_bitByte]
  by_cases h : i = 0
  · simp [h]
  · simp [h, BitVec.getLsbD_of_ge v (7 + i) (by omega)]

/-- A shift by seven places leaves only the lowest bit, at the top. -/
theorem shiftLeft_seven (v : Byte) : v <<< 7 = bitByte (v.getLsbD 0) <<< 7 := by
  refine BitVec.eq_of_getLsbD_eq fun i hi => ?_
  rw [BitVec.getLsbD_shiftLeft, BitVec.getLsbD_shiftLeft, getLsbD_bitByte]
  by_cases h : i < 7
  · simp [h]
  · simp [show i = 7 by omega]

/-- A shift to the left frees the lowest place, and the Carry takes it: a rotation through Carry. -/
theorem shiftLeft_one_or_bitByte (v : Byte) (c : Bool) :
    (v <<< 1) ||| bitByte c = BitVec.ofNat 8 (2 * v.toNat + c.toNat) := by
  have hfree : (v <<< 1) &&& bitByte c = 0#8 := BitVec.eq_of_getLsbD_eq fun i _ => by
    rw [BitVec.getLsbD_and, BitVec.getLsbD_shiftLeft, getLsbD_bitByte]
    by_cases h : i = 0 <;> simp [h]
  rw [← BitVec.add_eq_or_of_and_eq_zero _ _ hfree]
  refine BitVec.eq_of_toNat_eq ?_
  rw [BitVec.toNat_add, BitVec.toNat_shiftLeft, toNat_bitByte, Nat.shiftLeft_eq, BitVec.toNat_ofNat]
  omega

/-- A shift to the right frees the highest place, and the Carry takes it: a rotation through Carry. -/
theorem ushiftRight_one_or_bitByte (v : Byte) (c : Bool) :
    (v >>> 1) ||| (bitByte c <<< 7) = BitVec.ofNat 8 (v.toNat / 2 + 128 * c.toNat) := by
  have hfree : (v >>> 1) &&& (bitByte c <<< 7) = 0#8 := BitVec.eq_of_getLsbD_eq fun i _ => by
    rw [BitVec.getLsbD_and, BitVec.getLsbD_ushiftRight, BitVec.getLsbD_shiftLeft, getLsbD_bitByte]
    by_cases h : i < 7
    · simp [h]
    · simp [BitVec.getLsbD_of_ge v (1 + i) (by omega)]
  rw [← BitVec.add_eq_or_of_and_eq_zero _ _ hfree]
  refine BitVec.eq_of_toNat_eq ?_
  rw [BitVec.toNat_add, BitVec.toNat_ushiftRight, BitVec.toNat_shiftLeft, toNat_bitByte, Nat.shiftLeft_eq,
    Nat.shiftRight_eq_div_pow, BitVec.toNat_ofNat]
  omega

/-- A shift to the left is the rotation through a Carry of 0. -/
theorem shiftLeft_one_eq_ofNat (v : Byte) : v <<< 1 = BitVec.ofNat 8 (2 * v.toNat) :=
  BitVec.or_zero.symm.trans (shiftLeft_one_or_bitByte v false)

/-- A shift to the right is the rotation through a Carry of 0. -/
theorem ushiftRight_one_eq_ofNat (v : Byte) : v >>> 1 = BitVec.ofNat 8 (v.toNat / 2) :=
  BitVec.or_zero.symm.trans (ushiftRight_one_or_bitByte v false)

/-- An arithmetic shift to the right keeps the sign bit, which only the highest place still holds. -/
theorem ushiftRight_one_or_sign (v : Byte) : (v >>> 1) ||| (v &&& 0x80#8) = v.sshiftRight 1 := by
  ext i hi
  interval_cases i <;> simp [BitVec.getElem_sshiftRight, BitVec.msb_eq_getLsbD_last]

/-- A shift by four places leaves nothing of the upper nibble. -/
theorem lowNibble_shiftLeft (v : Byte) : (v &&& 0x0F#8) <<< 4 = v <<< 4 := by
  ext i hi
  interval_cases i <;> simp [BitVec.getElem_shiftLeft]

theorem RotOp.apply_eq_rotated (op : RotOp) (v : Byte) (c : Bool) : op.apply v c = rotated op v c := by
  cases op with
  | rlc => exact Prod.ext (congrArg (v <<< 1 ||| ·) (ushiftRight_seven v).symm) rfl
  | rrc => exact Prod.ext (congrArg (v >>> 1 ||| ·) (shiftLeft_seven v).symm) rfl
  | rl => exact Prod.ext (shiftLeft_one_or_bitByte v c) rfl
  | rr => exact Prod.ext (ushiftRight_one_or_bitByte v c) rfl
  | sla => exact Prod.ext (shiftLeft_one_eq_ofNat v) rfl
  | sra => exact Prod.ext (ushiftRight_one_or_sign v) rfl
  | swap => exact Prod.ext (congrArg (· ||| v >>> 4) (lowNibble_shiftLeft v)) rfl
  | srl => exact Prod.ext (ushiftRight_one_eq_ofNat v) rfl

/-! ### Result and flags (44_rotate_shift_bit.md R250-R271) -/

theorem rotateAcc_eq (op : RotOp) (s : State) : rotateAcc op s = afterRotateA op s := by
  rw [rotateAcc, RotOp.apply_eq_rotated, State.setFlags_eq_withF]
  rfl

theorem rotate8_res (op : RotOp) (v : Byte) (c : Bool) : (rotate8 op v c).res = (rotated op v c).1 :=
  congrArg Prod.fst (RotOp.apply_eq_rotated op v c)

theorem setAluFlags_rotate8 (op : RotOp) (v : Byte) (s t : State) :
    t.setAluFlags (rotate8 op v s.fC) = withF (flagsOfRotate op v s) t := by
  rw [rotate8, RotOp.apply_eq_rotated, State.setAluFlags, State.setFlags_eq_withF]
  rfl

theorem rotateReg_eq (op : RotOp) (r : Reg8) (s : State) : rotateReg op r s = afterRotateReg op r s := by
  rw [rotateReg, setAluFlags_rotate8, rotate8_res]
  rfl

theorem rotateMemHl_eq (op : RotOp) (s : State) : rotateMemHl op s = afterRotateMem op s := by
  rw [rotateMemHl, setAluFlags_rotate8, rotate8_res]
  rfl

/-- Settles O53: every form is one of the eight functions on its operand. -/
theorem rotateResults : Obligations.RotateResults := fun r s =>
  have hacc op := congrArg Host.Outcome.next (rotateAcc_eq op s)
  have hreg op := congrArg Host.Outcome.next (rotateReg_eq op r s)
  have hmem op := congrArg Host.Outcome.next (rotateMemHl_eq op s)
  ⟨hacc _, hacc _, hacc _, hacc _, hreg _, hreg _, hreg _, hreg _, hreg _, hreg _, hreg _, hreg _,
    hmem _, hmem _, hmem _, hmem _, hmem _, hmem _, hmem _, hmem _⟩

/-! ### One bit of a byte (44_rotate_shift_bit.md R272-R277) -/

theorem bitMask_eq_twoPow (b : BitVec 3) : bitMask b = BitVec.twoPow 8 b.toNat := rfl

theorem getLsbD_withBit (b : BitVec 3) (on : Bool) (v : Byte) {j : Nat} (hj : j < 8) :
    (withBit b on v).getLsbD j = if j = b.toNat then on else v.getLsbD j := by
  rw [withBit, BitVec.getLsbD_ofFnLE, dif_pos hj]

theorem getLsbD_withBit_self (b : BitVec 3) (on : Bool) (v : Byte) : (withBit b on v).getLsbD b.toNat = on := by
  rw [getLsbD_withBit b on v b.isLt, if_pos rfl]

theorem clearBit_eq_withBit (b : BitVec 3) (v : Byte) : clearBit b v = withBit b false v := by
  refine BitVec.eq_of_getLsbD_eq fun j hj => ?_
  rw [getLsbD_withBit b false v hj, clearBit, bitMask_eq_twoPow, BitVec.getLsbD_and, BitVec.getLsbD_not,
    BitVec.getLsbD_twoPow]
  by_cases h : j = b.toNat
  · simp [h, b.isLt]
  · simp [h, Ne.symm h, hj]

theorem setBit_eq_withBit (b : BitVec 3) (v : Byte) : setBit b v = withBit b true v := by
  refine BitVec.eq_of_getLsbD_eq fun j hj => ?_
  rw [getLsbD_withBit b true v hj, setBit, bitMask_eq_twoPow, BitVec.getLsbD_or, BitVec.getLsbD_twoPow]
  by_cases h : j = b.toNat
  · simp [h, b.isLt]
  · simp [h, Ne.symm h]

theorem exec_bitR (b : BitVec 3) (r : Reg8) (s : State) :
    exec (.bitR b r) s = .next (withF (flagsOfBit b (s.reg r) s) s) :=
  congrArg Host.Outcome.next (State.setFlags_eq_withF ..)

theorem exec_bitMemHl (b : BitVec 3) (s : State) :
    exec (.bitMemHl b) s = .next (withF (flagsOfBit b (busRead s.hl s) s) s) :=
  congrArg Host.Outcome.next (State.setFlags_eq_withF ..)

theorem exec_resR (b : BitVec 3) (r : Reg8) (s : State) :
    exec (.resR b r) s = .next (s.setReg r (withBit b false (s.reg r))) :=
  congrArg (fun v => Host.Outcome.next (s.setReg r v)) (clearBit_eq_withBit ..)

theorem exec_resMemHl (b : BitVec 3) (s : State) :
    exec (.resMemHl b) s = .next (busWrite s.hl (withBit b false (busRead s.hl s)) s) :=
  congrArg (fun v => Host.Outcome.next (busWrite s.hl v s)) (clearBit_eq_withBit ..)

theorem exec_setR (b : BitVec 3) (r : Reg8) (s : State) :
    exec (.setR b r) s = .next (s.setReg r (withBit b true (s.reg r))) :=
  congrArg (fun v => Host.Outcome.next (s.setReg r v)) (setBit_eq_withBit ..)

theorem exec_setMemHl (b : BitVec 3) (s : State) :
    exec (.setMemHl b) s = .next (busWrite s.hl (withBit b true (busRead s.hl s)) s) :=
  congrArg (fun v => Host.Outcome.next (busWrite s.hl v s)) (setBit_eq_withBit ..)

/-- Settles O54: BIT is one write of F, RES and SET one write of the operand. -/
theorem bitResults : Obligations.BitResults := fun b r s =>
  ⟨exec_bitR b r s, exec_bitMemHl b s, exec_resR b r s, exec_resMemHl b s, exec_setR b r s, exec_setMemHl b s⟩

/-! ### A bit written, then tested (95_test_vectors.md E1) -/

/-- Z after `BIT b` of a byte in which bit `b` was written. -/
theorem flagsOfBit_of_eq_withBit {b : BitVec 3} {on : Bool} {v w : Byte} (s : State) (h : v = withBit b on w) :
    (flagsOfBit b v s).getLsbD 7 = !on := by
  obtain ⟨hz, -⟩ := flagsByte_bits (!v.getLsbD b.toNat) false true (s.regs.f.getLsbD 4)
  rw [flagsOfBit, hz, h, getLsbD_withBit_self]

/-- The byte at HL after a store to it: the store leaves HL as it was. -/
theorem busRead_hl_busWrite_hl {s : State} (v : Byte) (hwf : s.mem.wf) (hhl : isStorage s.hl = true) :
    busRead (busWrite s.hl v s).hl (busWrite s.hl v s) = v := by
  rw [busWrite_hl]
  exact storageReadsBack s.hl s.hl v s hwf hhl rfl

/-- Settles O55: the test reads the byte with the bit just written, from the register or from storage. -/
theorem setThenTest : Obligations.SetThenTest := fun b r s =>
  ⟨⟨_, _, exec_setR b r s, exec_bitR b r _, flagsOfBit_of_eq_withBit _ (State.reg_setReg_self ..)⟩,
    ⟨_, _, exec_resR b r s, exec_bitR b r _, flagsOfBit_of_eq_withBit _ (State.reg_setReg_self ..)⟩,
    fun hwf hhl =>
      ⟨⟨_, _, exec_setMemHl b s, exec_bitMemHl b _, flagsOfBit_of_eq_withBit _ (busRead_hl_busWrite_hl _ hwf hhl)⟩,
        ⟨_, _, exec_resMemHl b s, exec_bitMemHl b _,
          flagsOfBit_of_eq_withBit _ (busRead_hl_busWrite_hl _ hwf hhl)⟩⟩⟩

end Sys2Proof.Machine
end


section
/-! SUPPORT. Proof of the statement about the control transfers (45_control.md R290-R301). Every form is one write of PC
(`State.setPc_eq_jumpedTo`), after `push16` for a call and after `pop16` for a return, made always or on a condition. -/

namespace Sys2Proof.Machine

/-! ### The shared transfers -/

/-- The model tests the condition on its flag accessors, the statement on the bits of F. -/
theorem State.cond_eq_holds (cc : Cond) (s : State) : s.cond cc = holds cc s.regs.f := by cases cc <;> rfl

theorem transferIf_eq (cc : Cond) {taken : State → State} {s t : State} (h : taken s = t) :
    transferIf cc taken s = if holds cc s.regs.f then t else s := by
  rw [transferIf, State.cond_eq_holds, h]

theorem push16_eq_pushed (v : Word) (s : State) : push16 v s = pushed v s := push16_eq v s

theorem setPc_relTarget (e8 : Byte) (s : State) :
    s.setPc (relTarget e8 s) = jumpedTo (BitVec.ofInt 16 ((s.regs.pc.toNat : Int) + e8.toInt)) s := by
  rw [State.setPc_eq_jumpedTo, relTarget, add_sext16]

theorem callTo_eq (target : Word) (s : State) : callTo target s = jumpedTo target (pushed s.regs.pc s) := by
  rw [callTo, State.setPc_eq_jumpedTo, push16_eq_pushed]

theorem returnTo_eq (s : State) : returnTo s = jumpedTo (popped s) (spUp2 s) := State.setPc_eq_jumpedTo ..

theorem returnFromInterrupt_eq (s : State) :
    returnFromInterrupt s = { jumpedTo (popped s) (spUp2 s) with ime := true, imeDelay := 0 } :=
  congrArg (fun t : State => { t with ime := true, imeDelay := 0 }) (returnTo_eq s)

/-! ### The jumps (R291-R295) -/

theorem exec_jpA16 (a16 : Word) (s : State) : exec (.jpA16 a16) s = .next (jumpedTo a16 s) :=
  congrArg Host.Outcome.next (State.setPc_eq_jumpedTo ..)

theorem exec_jpCcA16 (cc : Cond) (a16 : Word) (s : State) :
    exec (.jpCcA16 cc a16) s = .next (if holds cc s.regs.f then jumpedTo a16 s else s) :=
  congrArg Host.Outcome.next (transferIf_eq cc (State.setPc_eq_jumpedTo ..))

theorem exec_jpHl (s : State) : exec .jpHl s = .next (jumpedTo s.hl s) :=
  congrArg Host.Outcome.next (State.setPc_eq_jumpedTo ..)

theorem exec_jrE8 (e8 : Byte) (s : State) :
    exec (.jrE8 e8) s = .next (jumpedTo (BitVec.ofInt 16 ((s.regs.pc.toNat : Int) + e8.toInt)) s) :=
  congrArg Host.Outcome.next (setPc_relTarget e8 s)

theorem exec_jrCcE8 (cc : Cond) (e8 : Byte) (s : State) :
    exec (.jrCcE8 cc e8) s = .next (if holds cc s.regs.f
      then jumpedTo (BitVec.ofInt 16 ((s.regs.pc.toNat : Int) + e8.toInt)) s else s) :=
  congrArg Host.Outcome.next (transferIf_eq cc (setPc_relTarget e8 s))

/-! ### The calls, returns and restarts (R296-R301) -/

theorem exec_callA16 (a16 : Word) (s : State) :
    exec (.callA16 a16) s = .next (jumpedTo a16 (pushed s.regs.pc s)) :=
  congrArg Host.Outcome.next (callTo_eq a16 s)

theorem exec_callCcA16 (cc : Cond) (a16 : Word) (s : State) :
    exec (.callCcA16 cc a16) s =
      .next (if holds cc s.regs.f then jumpedTo a16 (pushed s.regs.pc s) else s) :=
  congrArg Host.Outcome.next (transferIf_eq cc (callTo_eq a16 s))

theorem exec_ret (s : State) : exec .ret s = .next (jumpedTo (popped s) (spUp2 s)) :=
  congrArg Host.Outcome.next (returnTo_eq s)

theorem exec_retCc (cc : Cond) (s : State) :
    exec (.retCc cc) s = .next (if holds cc s.regs.f then jumpedTo (popped s) (spUp2 s) else s) :=
  congrArg Host.Outcome.next (transferIf_eq cc (returnTo_eq s))

theorem exec_reti (s : State) :
    exec .reti s = .next { jumpedTo (popped s) (spUp2 s) with ime := true, imeDelay := 0 } :=
  congrArg Host.Outcome.next (returnFromInterrupt_eq s)

theorem exec_rst (t : BitVec 3) (s : State) :
    exec (.rst t) s = .next (jumpedTo (BitVec.ofNat 16 (8 * t.toNat)) (pushed s.regs.pc s)) :=
  congrArg Host.Outcome.next (callTo_eq (rstTarget t) s)

/-- Settles O56: each form is its transfer, and a conditional form is that transfer or nothing. -/
theorem controlResults : Obligations.ControlResults := fun cc a16 e8 t s =>
  ⟨exec_jpA16 a16 s, exec_jpCcA16 cc a16 s, exec_jpHl s, exec_jrE8 e8 s, exec_jrCcE8 cc e8 s, exec_callA16 a16 s,
    exec_callCcA16 cc a16 s, exec_ret s, exec_retCc cc s, exec_reti s, exec_rst t s⟩

end Sys2Proof.Machine
end


section
/-! SUPPORT. Proof of the statement about the system instructions (46_system.md R320-R326). The prefix follows the rows of
the extended map: 0xCB with a second byte means what the instruction of that byte means. -/

namespace Sys2Proof.Machine

/-- The arms of `execPrefixCb` over the rotates and shifts of a register. -/
theorem execPrefixCb_of_rotReg {op2 : Byte} {n : Nat} {r : Reg8} (s : State) (h : decodeExtended op2 = rotReg n r) :
    execPrefixCb op2 s = exec (rotReg n r) s := by
  unfold rotReg at h ⊢
  split at h <;> (rw [execPrefixCb, h]; rfl)

/-- The arms of `execPrefixCb` over the rotates and shifts of the byte at HL. -/
theorem execPrefixCb_of_rotMemHl {op2 : Byte} {n : Nat} (s : State) (h : decodeExtended op2 = rotMemHl n) :
    execPrefixCb op2 s = exec (rotMemHl n) s := by
  unfold rotMemHl at h ⊢
  split at h <;> (rw [execPrefixCb, h]; rfl)

/-- The prefix means the extended instruction (R325): its last arm is none of the extended map's. -/
theorem exec_prefixCb (op2 : Byte) (s : State) : exec (.prefixCb op2) s = exec (decodeExtended op2) s := by
  change execPrefixCb op2 s = exec (decodeExtended op2) s
  cases hr : Reg8.ofCode (fieldZ op2) with
  | some r =>
    rcases hx : fieldX op2 with _ | _ | _ | n
    · have h : decodeExtended op2 = rotReg (fieldY op2) r := by simp only [decodeExtended, hr, hx]
      rw [h, execPrefixCb_of_rotReg s h]
    all_goals simp only [execPrefixCb, decodeExtended, hr, hx]; rfl
  | none =>
    rcases hx : fieldX op2 with _ | _ | _ | n
    · have h : decodeExtended op2 = rotMemHl (fieldY op2) := by simp only [decodeExtended, hr, hx]
      rw [h, execPrefixCb_of_rotMemHl s h]
    all_goals simp only [execPrefixCb, decodeExtended, hr, hx]; rfl

/-- Completion of the prefix, from that of every instruction. -/
theorem exec_prefixCb_completes (op2 : Byte) (s : State) : ∃ t, exec (.prefixCb op2) s = .next t :=
  (exec_effect (.prefixCb op2) s).imp fun _ ht => ht.1

/-- Settles O57: the first six are the model's meanings as written, the prefix is that of its extended instruction. -/
theorem systemResults : Obligations.SystemResults := fun _ op2 _ s =>
  ⟨rfl, rfl, rfl, rfl, rfl, rfl, exec_prefixCb op2 s, exec_prefixCb_completes op2 s⟩

end Sys2Proof.Machine
end


section
/-! SUPPORT. Proofs of the statements about exceptions and interrupts (60_exceptions.md). What a ready machine does at
the top of a step is `step_of_awake` and `step_of_idle`, what a dispatch leaves is `takeInterrupt_eq`; the statements
follow from these and from `runInstr_eq`. -/

namespace Sys2Proof.Machine

/-! ### Which interrupt is pending (R351-R353) -/

/-- `pending` is the five lowest bits of IE and IF, met. -/
theorem State.pending_getLsbD (s : State) (n : Nat) :
    s.pending.getLsbD n = true ↔ n < 5 ∧ s.ieReg.getLsbD n = true ∧ s.ifReg.getLsbD n = true := by
  have hmask : (0x1F#8).getLsbD n = decide (n < 5) := by
    rcases Nat.lt_or_ge n 8 with h | h
    · interval_cases n <;> rfl
    · rw [BitVec.getLsbD_of_ge _ _ h, decide_eq_false (by omega)]
  rw [State.pending, BitVec.getLsbD_and, BitVec.getLsbD_and, hmask]
  simp only [Bool.and_eq_true, decide_eq_true_eq]
  exact and_comm

theorem State.pending_ne_zero_iff (s : State) :
    s.pending ≠ 0#8 ↔ ∃ n, n < 5 ∧ s.ieReg.getLsbD n = true ∧ s.ifReg.getLsbD n = true := by
  simp only [← s.pending_getLsbD]
  refine ⟨fun h => ?_, fun ⟨n, hn⟩ h => by simp [h] at hn⟩
  by_contra hnone
  exact h (BitVec.eq_of_getLsbD_eq fun n _ => by simpa using fun hn => hnone ⟨n, hn⟩)

/-- The interrupt dispatched is the lowest set bit of `pending`, and only under IME. -/
theorem State.interruptToTake_eq_some_iff (s : State) (n : Nat) :
    s.interruptToTake = some n ↔
      s.ime = true ∧ s.pending.getLsbD n = true ∧ ∀ m, m < n → ¬ s.pending.getLsbD m = true := by
  have hrange : s.pending.getLsbD n = true → n < 5 := fun h => ((s.pending_getLsbD n).1 h).1
  rw [State.interruptToTake, State.lowestPending]
  cases s.ime with
  | false => simp
  | true =>
    simp only [↓reduceIte, List.find?_range_eq_some, List.mem_range, Bool.not_eq_true', Bool.not_eq_true, true_and]
    exact and_congr_right fun hn => and_iff_right (hrange hn)

/-- Settles O22: the bits of `pending` are those of IE and IF below 5, and the search takes the lowest of them. -/
theorem interruptPriority : Obligations.InterruptPriority := by
  refine fun s => ⟨fun n => ?_, s.pending_ne_zero_iff⟩
  rw [s.interruptToTake_eq_some_iff, s.pending_getLsbD]
  refine and_congr_right fun _ => ?_
  rw [and_assoc, and_assoc]
  refine and_congr_right fun hn => and_congr_right fun _ => and_congr_right fun _ => forall₂_congr fun m hm => ?_
  rw [s.pending_getLsbD]
  exact not_congr (and_iff_right (hm.trans hn))

/-! ### Dispatch (R354) -/

/-- Bit `n` of IF acknowledged, IME and the delay of `EI` cleared. -/
def acknowledged (n : Nat) (s : State) : State :=
  { s with ifReg := s.ifReg &&& ~~~(1#8 <<< n), ime := false, imeDelay := 0 }

/-- A dispatch acknowledges the interrupt, then calls its vector. -/
theorem takeInterrupt_eq_callTo (n : Nat) (s : State) :
    takeInterrupt n s = callTo (vectorFor n) (acknowledged n s) := rfl

theorem vectorFor_ne_0x0100 {n : Nat} (h : n < 5) : vectorFor n ≠ 0x0100#16 := by
  interval_cases n <;> decide

/-- No vector is 0x0100, so a dispatch leaves the overlay latch alone. -/
theorem takeInterrupt_eq {n : Nat} (s : State) (h : n < 5) :
    takeInterrupt n s =
      { pushed s.regs.pc (acknowledged n s) with
        regs := { (pushed s.regs.pc (acknowledged n s)).regs with pc := vectorFor n } } := by
  rw [takeInterrupt_eq_callTo, callTo_eq, jumpedTo, if_neg (vectorFor_ne_0x0100 h)]
  rfl

/-- A push into storage changes the cells and SP. -/
theorem pushed_storage (v : Word) (s : State) (hhi : isStorage (s.regs.sp - 1#16) = true)
    (hlo : isStorage (s.regs.sp - 2#16) = true) : ∃ m, pushed v s = { s.setSp (s.regs.sp - 2#16) with mem := m } := by
  simp only [pushed, busWrite_storage _ _ _ hhi, busWrite_storage _ _ _ hlo]
  exact ⟨_, rfl⟩

/-- A push into storage misses IF, IE and the PPU. -/
theorem takeInterrupt_devices {n : Nat} (s : State) (h : n < 5) (hhi : isStorage (s.regs.sp - 1#16) = true)
    (hlo : isStorage (s.regs.sp - 2#16) = true) :
    (takeInterrupt n s).ifReg = s.ifReg &&& ~~~(1#8 <<< n) ∧ (takeInterrupt n s).ieReg = s.ieReg ∧
      (takeInterrupt n s).ppu = s.ppu := by
  obtain ⟨m, hpushed⟩ := pushed_storage s.regs.pc (acknowledged n s) hhi hlo
  rw [takeInterrupt_eq s h, hpushed]
  exact ⟨rfl, rfl, rfl⟩

/-- The word at SP after a dispatch is the one that was pushed. -/
theorem popped_takeInterrupt {n : Nat} (s : State) (h : n < 5) (hwf : s.mem.wf)
    (hhi : isStorage (s.regs.sp - 1#16) = true) (hlo : isStorage (s.regs.sp - 2#16) = true) :
    popped (takeInterrupt n s) = s.regs.pc := calc
  popped (takeInterrupt n s) = memRead16 (takeInterrupt n s).regs.sp (takeInterrupt n s) := rfl
  _ = memRead16 (s.regs.sp - 2#16) (push16 s.regs.pc (acknowledged n s)) := by
    rw [takeInterrupt_sp, takeInterrupt_eq s h, ← push16_eq_pushed]; rfl
  _ = s.regs.pc := memRead16_push16 s.regs.pc (acknowledged n s) hwf hhi hlo

/-- Settles O23: the dispatch is a push and a write of PC; a push into storage misses the devices and is read back. -/
theorem takeInterrupt_spec : Obligations.TakeInterrupt := by
  refine fun n s hn => ⟨takeInterrupt_eq s hn, fun hwf hhi hlo => ?_⟩
  obtain ⟨hif, hie, hppu⟩ := takeInterrupt_devices s hn hhi hlo
  exact ⟨hif, hie, hppu, popped_takeInterrupt s hn hwf hhi hlo⟩

/-! ### IME and its delay (R354, R356, R357) -/

@[simp] theorem takeInterrupt_imeDelay (n : Nat) (s : State) : (takeInterrupt n s).imeDelay = 0 := by
  simp [takeInterrupt]

theorem tickIme_eq (s : State) :
    tickIme s = if s.imeDelay = 0 then s
      else { s with imeDelay := s.imeDelay - 1, ime := if s.imeDelay = 1 then true else s.ime } := by
  rcases hd : s.imeDelay with _ | _ | d <;> simp [tickIme, hd]

/-- Settles O24: `tickIme_eq` at the delays 2 and 1, and at the delay 0 that `DI`, `RETI` and a dispatch leave. -/
theorem eiDelay : Obligations.EiDelay := by
  intro s
  have hfirst : tickIme { s with imeDelay := 2 } = { s with imeDelay := 1 } := tickIme_eq _
  have hsecond : tickIme { s with imeDelay := 1 } = { s with imeDelay := 0, ime := true } := tickIme_eq _
  exact ⟨rfl, tickIme_eq s, hfirst, by rw [hfirst, hsecond], ⟨_, rfl, rfl, rfl, rfl⟩, ⟨_, rfl, rfl, rfl, rfl⟩,
    fun n _ => ⟨takeInterrupt_ime n s, takeInterrupt_imeDelay n s⟩⟩

/-! ### Whether there is a step (R120 step 1, R342, R345) -/

theorem runInstr_completes (c0 : Nat) (s : State) : ∃ t, runInstr c0 s = .next t := by
  obtain ⟨t, -, hrun⟩ := runInstr_eq c0 (rfl : fetch s = fetch s)
  exact ⟨_, hrun⟩

theorem dispatchAndRun_completes (s : State) : ∃ t, dispatchAndRun s = .next t := by
  unfold dispatchAndRun
  split
  · exact runInstr_completes ..
  · exact runInstr_completes ..

theorem runningStep_completes (s : State) : ∃ t, runningStep s = .next t := by
  unfold runningStep
  split_ifs
  · exact ⟨_, rfl⟩
  · exact ⟨_, rfl⟩
  · exact dispatchAndRun_completes _

theorem step_of_running {s : State} (hfault : s.fault = none) (hstopped : s.stopped = false) :
    step s = runningStep s := by
  simp [step, systemStep, hfault, hstopped]

theorem step_of_fault {s : State} {c : FatalCondition} (h : s.fault = some c) : step s = .fault (.fatal c) := by
  simp only [step, systemStep, h]

theorem step_of_stopped {s : State} (hfault : s.fault = none) (hstopped : s.stopped = true) :
    step s = .fault .stopped := by
  simp [step, systemStep, hfault, hstopped]

/-- Settles O12: a running step completes, whether it raises `NotReady`, idles or runs an instruction. -/
theorem stepOutcome : Obligations.StepOutcome := fun s =>
  ⟨fun hfault hstopped => step_of_running hfault hstopped ▸ runningStep_completes s, fun _ => step_of_fault,
    step_of_stopped⟩

/-- Settles O17: the condition is raised before anything else, and its record ends the run. -/
theorem notReadyStep : Obligations.NotReadyStep := by
  refine fun s hfault hstopped hcart => ⟨?_, step_of_fault rfl⟩
  rw [step_of_running hfault hstopped, runningStep, if_pos hcart, raiseFatal]

/-! ### The halted CPU (R359) -/

/-- An idle step ends at once, at the cost of an idle step. -/
theorem step_of_idle {s : State} (hready : Ready s) (hhalted : s.halted = true) (hpending : s.pending = 0#8) :
    step s = .next (retire idleCycles s) := by
  obtain ⟨hfault, hstopped, hcart⟩ := hready
  rw [step_of_running hfault hstopped, runningStep, if_neg (by simp [hcart]), if_pos ⟨hhalted, hpending⟩]

/-- The end of a step leaves `halted` alone. -/
theorem ppuStep_tickIme_halted (c : Nat) (s : State) : (ppuStep c (tickIme s)).halted = s.halted := by
  obtain ⟨p, f, hppu⟩ := ppuStep_eq c (tickIme s)
  obtain ⟨b, n, htick, -, -⟩ := tickIme_frame s
  rw [hppu, htick]

/-- Settles O18: an idle step retires; a pending request wakes the CPU, and waking it again changes nothing. -/
theorem haltedStep : Obligations.HaltedStep := by
  refine fun s hready hhalted => ⟨fun hpending => ⟨?_, ?_⟩, fun hpending => ?_⟩
  · rw [step_of_idle hready hhalted hpending, retire_eq, idleCycles]
  · rw [ppuStep_tickIme_halted, hhalted]
  · have hawake : Awake (wake s) := fun h => absurd h (by simp [wake])
    rw [step_of_awake hready fun _ => hpending]
    exact (step_of_awake (s := wake s) hready hawake).symm

/-! ### Dispatch and fetch in one step (R341, R353, R355) -/

/-- Settles O15: the step is the dispatch and the run of the instruction at the vector, 20 cycles dearer. -/
theorem stepTakesInterruptThenRuns : Obligations.StepTakesInterruptThenRuns := by
  intro s n i rest hready hawake hint hdecode
  obtain ⟨t, ht, hrun⟩ := runInstr_eq dispatchCycles (fetch_of_decode hdecode)
  have hwake : (wake s).interruptToTake = some n := hint
  exact ⟨t, ht, by rw [step_of_awake hready hawake, dispatchAndRun, hwake]; exact hrun⟩

/-- Fetching an undefined opcode records it and ends the step there, whatever a dispatch has cost. -/
theorem runInstr_undefined (c0 : Nat) (s : State)
    (h : (busRead s.regs.pc s).toNat ∈ [0xD3, 0xDB, 0xDD, 0xE3, 0xE4, 0xEB, 0xEC, 0xED, 0xF4, 0xFC, 0xFD]) :
    runInstr c0 s = .next { s with fault := some (.unknownOpcode (busRead s.regs.pc s) s.regs.pc) } := by
  obtain ⟨hundefined, hopcode⟩ := undefinedOpcodesAreEleven (busRead s.regs.pc s) (busRead (s.regs.pc + 1#16) s)
    (busRead (s.regs.pc + 2#16) s)
  obtain ⟨hole, hfetch⟩ := hundefined.2 h
  obtain ⟨t, ht, hrun⟩ := runInstr_eq c0 (s := s) hfetch
  cases ht
  rw [← hopcode hole hfetch]
  exact hrun

/-- Settles O16: after the dispatch, if there is one, the fetch raises the condition. -/
theorem undefinedOpcodeStep : Obligations.UndefinedOpcodeStep := by
  intro s hready hawake
  rw [step_of_awake hready hawake]
  have hwake : (wake s).interruptToTake = s.interruptToTake := rfl
  unfold dispatchAndRun
  rw [hwake]
  cases s.interruptToTake with
  | none => exact runInstr_undefined 0 _
  | some n => exact runInstr_undefined dispatchCycles _

end Sys2Proof.Machine
end


section
/-! SUPPORT. Proofs of the statements about the mode machine of the PPU and about what a step costs. `PpuStep` is taken
one turn of its loop at a time (`ppuStep_turns`); `StepEnds` says once how a step ends, and that the PPU and the cycle
total stand still until it retires. -/

namespace Sys2Proof.Machine

/-! ### The four transitions (61_ppu.md R413-R415) -/

/-- IF with lcd-stat (bit 1) requested, or as it was. -/
def withLcdStat (on : Bool) (f : Byte) : Byte := if on then f ||| 0x02#8 else f

/-- Two reasons for one request are one request. -/
theorem withLcdStat_withLcdStat (a b : Bool) (f : Byte) : withLcdStat a (withLcdStat b f) = withLcdStat (a || b) f := by
  cases a <;> cases b <;> simp [withLcdStat, BitVec.or_assoc]

/-- The two requests of T3 are of different bits. -/
theorem withLcdStat_vblank (on : Bool) (f : Byte) : withLcdStat on f ||| 0x01#8 = withLcdStat on (f ||| 0x01#8) := by
  cases on with
  | false => rfl
  | true => exact (BitVec.or_assoc ..).trans (BitVec.or_assoc f 0x01#8 0x02#8).symm

theorem requestStat_eq_withLcdStat (bit : Nat) (s : State) :
    requestStat bit s = { s with ifReg := withLcdStat (s.ppu.statEn.getLsbD bit) s.ifReg } := requestStat_eq bit s

/-- `SetLY` writes LY and requests lcd-stat on a match with LYC that STAT bit 6 enables. -/
theorem setLy_eq_withLcdStat (v : Byte) (s : State) :
    setLy v s = { s with
      ppu := { s.ppu with ly := v }, ifReg := withLcdStat (s.ppu.statEn.getLsbD 6 && s.ppu.lyc == v) s.ifReg } := by
  unfold setLy
  dsimp only
  split
  case isTrue h => rw [requestStat_eq_withLcdStat, h, beq_self_eq_true, Bool.and_true]
  case isFalse h => rw [beq_eq_false_iff_ne.2 (Ne.symm h), Bool.and_false]; rfl

theorem endHblank_of_last {s : State} (h : s.ppu.ly = 143#8) :
    endHblank s = { s with
      ppu := { s.ppu with ly := 144#8, mode := .vblank, frames := s.ppu.frames ++ [s.ppu.work] }
      ifReg := withLcdStat (s.ppu.statEn.getLsbD 4 || (s.ppu.statEn.getLsbD 6 && s.ppu.lyc == 144#8))
        (s.ifReg ||| 0x01#8) } := by
  rw [endHblank, if_pos h, setLy_eq_withLcdStat, requestStat_eq_withLcdStat, ← withLcdStat_withLcdStat,
    ← withLcdStat_vblank]
  rfl

theorem endHblank_of_ne {s : State} (h : s.ppu.ly ≠ 143#8) :
    endHblank s = { s with
      ppu := { s.ppu with ly := s.ppu.ly + 1#8, mode := .oamScan }
      ifReg := withLcdStat (s.ppu.statEn.getLsbD 5 || (s.ppu.statEn.getLsbD 6 && s.ppu.lyc == s.ppu.ly + 1#8))
        s.ifReg } := by
  rw [endHblank, if_neg h, setLy_eq_withLcdStat, requestStat_eq_withLcdStat, ← withLcdStat_withLcdStat]
  rfl

theorem endVblankLine_of_last {s : State} (h : s.ppu.ly = 153#8) :
    endVblankLine s = { s with
      ppu := { s.ppu with ly := 0#8, mode := .oamScan }
      ifReg := withLcdStat (s.ppu.statEn.getLsbD 5 || (s.ppu.statEn.getLsbD 6 && s.ppu.lyc == 0#8)) s.ifReg } := by
  rw [endVblankLine, if_pos h, setLy_eq_withLcdStat, requestStat_eq_withLcdStat, ← withLcdStat_withLcdStat]
  rfl

theorem endVblankLine_of_ne {s : State} (h : s.ppu.ly ≠ 153#8) :
    endVblankLine s = { s with
      ppu := { s.ppu with ly := s.ppu.ly + 1#8 }
      ifReg := withLcdStat (s.ppu.statEn.getLsbD 6 && s.ppu.lyc == s.ppu.ly + 1#8) s.ifReg } := by
  rw [endVblankLine, if_neg h, setLy_eq_withLcdStat]

theorem endMode_of_oamScan {s : State} (h : s.ppu.mode = .oamScan) : endMode s = endOamScan s := by rw [endMode, h]

theorem endMode_of_pixelTransfer {s : State} (h : s.ppu.mode = .pixelTransfer) : endMode s = endPixelTransfer s := by
  rw [endMode, h]

theorem endMode_of_hblank {s : State} (h : s.ppu.mode = .hblank) : endMode s = endHblank s := by rw [endMode, h]

theorem endMode_of_vblank {s : State} (h : s.ppu.mode = .vblank) : endMode s = endVblankLine s := by rw [endMode, h]

/-- Settles O28: the transition out of each mode, with the requests of `SetLY` and of the mode entered made one. -/
theorem modeTransitions : Obligations.ModeTransitions := by
  intro s
  exact ⟨endMode_of_oamScan, fun hm => (endMode_of_pixelTransfer hm).trans (requestStat_eq_withLcdStat 3 _),
    fun hm hly => (endMode_of_hblank hm).trans (endHblank_of_last hly),
    fun hm hly => (endMode_of_hblank hm).trans (endHblank_of_ne hly),
    fun hm hly => (endMode_of_vblank hm).trans (endVblankLine_of_last hly),
    fun hm hly => (endMode_of_vblank hm).trans (endVblankLine_of_ne hly)⟩

/-! ### `PpuStep`, one turn of the loop at a time (61_ppu.md R412) -/

/-- Below the length of the mode no threshold is reached. -/
theorem ppuStep_of_lt {c : Nat} {s : State} (h : s.ppu.modeCycles + c < modeLength s.ppu.mode) :
    ppuStep c s = s.withModeCycles (s.ppu.modeCycles + c) := by
  unfold ppuStep ppuFuel ppuLoop
  exact if_neg (by dsimp only; omega)

/-- At the length of the mode its cycles are taken off, the transition is made, and the rest is advanced after it. -/
theorem ppuStep_of_le {c : Nat} {s : State} (h : modeLength s.ppu.mode ≤ s.ppu.modeCycles + c) :
    ppuStep c s =
      ppuStep (s.ppu.modeCycles + c - modeLength s.ppu.mode) (endMode (s.withModeCycles 0)) := by
  have hpos := modeLength_pos s.ppu.mode
  have hrest : ∀ n, endMode (s.withModeCycles n) = (endMode (s.withModeCycles 0)).withModeCycles n := fun n => by
    rw [endMode_withModeCycles, endMode_withModeCycles]; rfl
  calc ppuStep c s
    _ = ppuLoop ((s.ppu.modeCycles + c) / 80)
          (endMode (s.withModeCycles (s.ppu.modeCycles + c - modeLength s.ppu.mode))) := by
      unfold ppuStep ppuFuel
      rw [ppuLoop]
      exact if_pos h
    _ = ppuLoop ((s.ppu.modeCycles + c - modeLength s.ppu.mode) / 80 + 1)
          (endMode (s.withModeCycles (s.ppu.modeCycles + c - modeLength s.ppu.mode))) := by
      apply ppuLoop_fuel <;> simp only [endMode_modeCycles, State.withModeCycles] <;> omega
    _ = _ := by
      rw [hrest]
      unfold ppuStep ppuFuel
      simp only [endMode_modeCycles, State.withModeCycles, Nat.zero_add]

/-- Induction over the turns of the loop of `PpuStep`. -/
theorem ppuStep_turns {motive : Nat → State → Prop}
    (settled : ∀ c s, s.ppu.modeCycles + c < modeLength s.ppu.mode → motive c s)
    (turn : ∀ c s, modeLength s.ppu.mode ≤ s.ppu.modeCycles + c →
      motive (s.ppu.modeCycles + c - modeLength s.ppu.mode) (endMode (s.withModeCycles 0)) → motive c s)
    (c : Nat) (s : State) : motive c s := by
  induction hn : s.ppu.modeCycles + c using Nat.strong_induction_on generalizing c s with
  | _ n ih =>
    rcases Nat.lt_or_ge n (modeLength s.ppu.mode) with hlt | hle
    · exact settled c s (by omega)
    · have hpos := modeLength_pos s.ppu.mode
      refine turn c s (by omega) (ih (n - modeLength s.ppu.mode) (by omega) _ _ ?_)
      simp only [endMode_modeCycles, State.withModeCycles, Nat.zero_add, hn]

/-- Settles O25: a turn of the first advance is a turn of the sum; after the last one the counters add up. -/
theorem ppuStepAdds : Obligations.PpuStepAdds := by
  intro a b s
  induction a, s using ppuStep_turns with
  | settled a s hlt =>
    rw [ppuStep_of_lt hlt]
    simp only [ppuStep, State.withModeCycles, Nat.add_assoc]
  | turn a s hle ih =>
    rw [ppuStep_of_le hle, ih, ppuStep_of_le (c := a + b) (by omega)]
    congr 1
    omega

/-- Settles O26: the loop has run to its exit, whatever the counter was. -/
theorem ppuStepSettles : Obligations.PpuStepSettles := ppuStep_modeTime

/-! ### The schedule (61_ppu.md R411, R412, R416) -/

/-- The current mode of `p`, one of its line, began when the cycle total was `t`, on the schedule of lines and
frames. -/
def ModeBegan (t : Nat) (p : Ppu) : Prop :=
  p.ly.toNat ≤ 153 ∧ (p.mode = .vblank ↔ 144 ≤ p.ly.toNat) ∧ t % 70224 = 456 * p.ly.toNat + modeStart p.mode ∧
    p.frames.length = (t + 4560) / 70224

/-- A mode that lasts its length ends on schedule: the next one begins where it stops, line 0 where line 153 does, and
a frame is delivered at the end of line 143. -/
theorem ModeBegan.afterMode {t : Nat} {s : State} (h : ModeBegan t s.ppu) :
    ModeBegan (t + modeLength s.ppu.mode) (ppuAfterMode s) := by
  unfold ppuAfterMode
  split
  case h_1 hm | h_2 hm =>
    simp only [ModeBegan, hm, modeStart, modeLength, reduceCtorEq, false_iff] at h ⊢
    omega
  case h_3 hm =>
    split
    case isTrue hly =>
      simp only [ModeBegan, hm, hly, modeStart, modeLength, List.length_append, List.length_singleton,
        BitVec.toNat_ofNat, reduceCtorEq, false_iff, true_iff] at h ⊢
      omega
    case isFalse hly =>
      have hnext : s.ppu.ly.toNat < 143 → (s.ppu.ly + 1#8).toNat = s.ppu.ly.toNat + 1 := by bv_omega
      have hne : s.ppu.ly.toNat ≠ 143 := by bv_omega
      simp only [ModeBegan, hm, modeStart, modeLength, reduceCtorEq, false_iff] at h ⊢
      omega
  case h_4 hm =>
    split
    case isTrue hly =>
      simp only [ModeBegan, hm, hly, modeStart, modeLength, BitVec.toNat_ofNat, reduceCtorEq, false_iff, true_iff]
        at h ⊢
      omega
    case isFalse hly =>
      have hnext : s.ppu.ly.toNat ≤ 153 → (s.ppu.ly + 1#8).toNat = s.ppu.ly.toNat + 1 := by bv_omega
      have hne : s.ppu.ly.toNat ≠ 153 := by bv_omega
      simp only [ModeBegan, hm, modeStart, modeLength, true_iff] at h ⊢
      omega

/-- After `PpuStep(c)` the mode it ends in has run since it began for what is left of the cycles. -/
theorem ModeBegan.ppuStep {t : Nat} (c : Nat) {s : State} (h : ModeBegan t s.ppu) :
    ∃ t', ModeBegan t' (ppuStep c s).ppu ∧ t' + (ppuStep c s).ppu.modeCycles = t + s.ppu.modeCycles + c := by
  induction c, s using ppuStep_turns generalizing t with
  | settled c s hlt =>
    rw [ppuStep_of_lt hlt]
    exact ⟨t, h, (Nat.add_assoc ..).symm⟩
  | turn c s hle ih =>
    have hzero : ModeBegan t (s.withModeCycles 0).ppu := h
    have hnext : ModeBegan (t + modeLength s.ppu.mode) (endMode (s.withModeCycles 0)).ppu := by
      obtain ⟨f, heq⟩ := endMode_eq (s.withModeCycles 0)
      rw [heq]
      exact hzero.afterMode
    obtain ⟨t', hbegan, hsum⟩ := ih hnext
    rw [← ppuStep_of_le hle] at hbegan hsum
    refine ⟨t', hbegan, hsum.trans ?_⟩
    rw [endMode_modeCycles]
    dsimp only [State.withModeCycles]
    omega

/-- No mode runs across the delivery of a frame, at 65,664, or the end of the frame, at 70,224. -/
theorem Inv.mode_within_frame {s : State} (hs : Inv s) :
    456 * s.ppu.ly.toNat + modeStart s.ppu.mode + modeLength s.ppu.mode ≤ 65664 ∨
      (65664 ≤ 456 * s.ppu.ly.toNat + modeStart s.ppu.mode ∧
        456 * s.ppu.ly.toNat + modeStart s.ppu.mode + modeLength s.ppu.mode ≤ 70224) := by
  have hline := hs.line
  have hvblank := hs.vblankLines
  cases hm : s.ppu.mode with
  | vblank =>
    have hge := hvblank.1 hm
    simp only [modeStart, modeLength]
    omega
  | hblank | oamScan | pixelTransfer =>
    simp only [hm, reduceCtorEq, false_iff] at hvblank
    simp only [modeStart, modeLength]
    omega

/-- The PPU is on schedule when its mode began on schedule, the mode counter ago. -/
theorem Inv.onSchedule_iff {t : Nat} {s : State} (hs : Inv s) (ht : t + s.ppu.modeCycles = s.totalCycles) :
    OnSchedule s ↔ ModeBegan t s.ppu := by
  have hwithin := hs.mode_within_frame
  have htime := hs.modeTime
  rw [OnSchedule, framePos, ← ht]
  constructor
  · rintro ⟨hposition, hdelivered⟩
    exact ⟨hs.line, hs.vblankLines, by omega, by omega⟩
  · rintro ⟨-, -, hposition, hdelivered⟩
    exact ⟨by omega, by omega⟩

/-! ### What a step costs (70_reset_and_hazards.md R470-R472) -/

/-- A defined instruction costs 4 to 24 cycles (70_reset_and_hazards.md R471). -/
theorem cycles_bounds (i : Instr) (s : State) (h : ∀ hole, i ≠ .illegal hole) :
    4 ≤ cycles i s ∧ cycles i s ≤ 24 ∧ cycles i s % 4 = 0 := by
  cases i with
  | illegal hole => exact absurd rfl (h hole)
  | jrCcE8 | jpCcA16 | callCcA16 | retCc | prefixCb => simp only [cycles, extendedCycles]; split_ifs <;> decide
  | _ => simp only [cycles]; decide

theorem SameDevices.refl (s : State) : SameDevices s s := (Writes.refl (ps := [])).devices

theorem Updates.sameDevices {s t : State} (h : Updates s t) : SameDevices s t := by
  induction h with
  | refl => exact .refl s
  | setReg _ r v ih => exact ih.trans (by simp [SameDevices])
  | store _ a v ih =>
    obtain ⟨-, -, -, -, -, -, -, -, hdevices⟩ := storeFrame a v _
    exact ih.trans hdevices
  | setF _ _ ih | setSp _ _ ih | setPc _ _ ih | control _ _ _ _ ih => exact ih.trans (.refl _)

theorem exec_sameDevices {i : Instr} {s t : State} (h : exec i s = .next t) : SameDevices s t := by
  obtain ⟨u, hu, hwrites⟩ := exec_writes i s
  cases hu.symm.trans h
  exact hwrites.devices

theorem takeInterrupt_sameDevices (n : Nat) (s : State) : SameDevices s (takeInterrupt n s) :=
  (SameDevices.refl s).trans (Updates.callTo (vectorFor n) (acknowledged n s)).sameDevices

/-- How a step from `s` ends: in a fatal condition, with the devices as they were, or retired at a cost of `lo` to `hi`
cycles, up to which the devices were as in `s` (70_reset_and_hazards.md R466). -/
def StepEnds (lo hi : Nat) (s t : State) : Prop :=
  (t.fault ≠ none ∧ SameDevices s t) ∨
    ∃ u c, SameDevices s u ∧ u.fault = none ∧ lo ≤ c ∧ c ≤ hi ∧ c % 4 = 0 ∧ t = retire c u

/-- What comes before an instruction leaves the devices alone. -/
theorem StepEnds.after {lo hi lo' hi' : Nat} {r s t : State} (h : StepEnds lo hi s t) (hr : SameDevices r s)
    (hlo : lo' ≤ lo) (hhi : hi ≤ hi') : StepEnds lo' hi' r t := by
  rcases h with ⟨hfault, hs⟩ | ⟨u, c, hs, hfault, hc, hc', hmod, ht⟩
  · exact .inl ⟨hfault, hr.trans hs⟩
  · exact .inr ⟨u, c, hr.trans hs, hfault, hlo.trans hc, hc'.trans hhi, hmod, ht⟩

/-- An undefined opcode raises a fatal condition, and any other instruction has a cost. -/
theorem runInstr_ends {c0 : Nat} {s t : State} (hc0 : c0 % 4 = 0) (h : runInstr c0 s = .next t) :
    StepEnds (c0 + 4) (c0 + 24) s t := by
  obtain ⟨u, hu, -, ht⟩ := runInstr_cases h
  have hdevices : SameDevices s u := (Updates.advance (fetch s) s).sameDevices.trans (exec_sameDevices hu)
  rcases ht with ⟨hfault, rfl⟩ | ⟨hfault, rfl⟩
  · exact .inl ⟨Option.isSome_iff_ne_none.1 hfault, hdevices⟩
  · have hdefined : ∀ hole, fetch s ≠ .illegal hole := fun hole hi => by
      rw [hi] at hu
      cases hu
      cases hfault
    obtain ⟨hlo, hhi, hmod⟩ := cycles_bounds (fetch s) (advance (fetch s) s) hdefined
    exact .inr ⟨u, _, hdevices, by simpa using hfault, by omega, by omega, by omega, rfl⟩

/-- The bound is a dispatch and the dearest instruction: 20 + 24 cycles. -/
theorem step_ends {s t : State} (h : step s = .next t) : StepEnds 4 44 s t := by
  obtain ⟨hfault, -, hstep⟩ := step_eq_next h
  have hwake : SameDevices s (wake s) := (Updates.wake s).sameDevices
  rcases runningStep_cases hstep with ⟨-, rfl⟩ | ⟨-, -, rfl⟩ | ⟨-, n, -, hrun⟩ | ⟨-, -, hrun⟩
  · exact .inl ⟨Option.some_ne_none _, (Updates.raiseFatal ..).sameDevices⟩
  · exact .inr ⟨s, idleCycles, .refl s, hfault, by decide, by decide, by decide, rfl⟩
  · exact (runInstr_ends (by decide) hrun).after (hwake.trans (takeInterrupt_sameDevices n _)) (by decide) (by decide)
  · exact (runInstr_ends (by decide) hrun).after hwake (by decide) (by decide)

theorem retire_totalCycles (c : Nat) (s : State) : (retire c s).totalCycles = s.totalCycles + c := by rw [retire_eq]

theorem retire_fault (c : Nat) (s : State) : (retire c s).fault = s.fault := by
  obtain ⟨p, f, hppu⟩ := ppuStep_eq c (tickIme s)
  obtain ⟨b, n, htick, -, -⟩ := tickIme_frame s
  rw [retire_eq, hppu, htick]

theorem SameDevices.framePos_eq {s t : State} (h : SameDevices s t) : framePos t.ppu = framePos s.ppu := by
  obtain ⟨-, -, -, hly, hmode, hcycles, -, -, -⟩ := h
  rw [framePos, framePos, hly, hmode, hcycles]

/-- Settles O19: a step that raises no fatal condition retires. -/
theorem stepCost : Obligations.StepCost := by
  intro s t h
  rcases step_ends h with ⟨hfault, hdevices⟩ | ⟨u, c, hdevices, hfault, hlo, hhi, hmod, rfl⟩
  · have hframe := hdevices.framePos_eq
    obtain ⟨-, -, htotal, -⟩ := hdevices
    exact ⟨fun hnone => absurd hnone hfault, fun _ => ⟨htotal, hframe⟩⟩
  · obtain ⟨-, -, htotal, -⟩ := hdevices
    exact ⟨fun _ => ⟨c, hlo, hhi, hmod, by rw [retire_totalCycles, htotal]⟩,
      fun hsome => absurd ((retire_fault c u).trans hfault) hsome⟩

/-! ### The schedule over a step (61_ppu.md R412, R416) -/

theorem SameDevices.modeBegan {n : Nat} {s t : State} (h : SameDevices s t) (hs : ModeBegan n s.ppu) :
    ModeBegan n t.ppu := by
  obtain ⟨-, -, -, hly, hmode, -, -, hframes, -⟩ := h
  obtain ⟨hline, hvblank, hposition, hdelivered⟩ := hs
  exact ⟨hly ▸ hline, hly ▸ hmode ▸ hvblank, hly ▸ hmode ▸ hposition, hframes ▸ hdelivered⟩

/-- Settles O10: a fatal step moves neither clock; any other step retires, and its cost advances both. -/
theorem stepKeepsSchedule : Obligations.StepKeepsSchedule := by
  intro s t hs hsched h
  have hle : s.ppu.modeCycles ≤ s.totalCycles := calc
    s.ppu.modeCycles ≤ framePos s.ppu := Nat.le_add_left ..
    _ = s.totalCycles % 70224 := hsched.1.symm
    _ ≤ s.totalCycles := Nat.mod_le ..
  have hbegan : ModeBegan (s.totalCycles - s.ppu.modeCycles) s.ppu := (hs.onSchedule_iff (by omega)).1 hsched
  have ht : Inv t := stepKeepsInv s t hs h
  rcases step_ends h with ⟨-, hdevices⟩ | ⟨u, c, hdevices, -, -, -, -, rfl⟩
  · have hbegan' := hdevices.modeBegan hbegan
    obtain ⟨-, -, htotal, -, -, hcycles, -⟩ := hdevices
    exact (ht.onSchedule_iff (by omega)).2 hbegan'
  · have hppu : (tickIme u).ppu = u.ppu := by
      obtain ⟨b, n, htick, -, -⟩ := tickIme_frame u
      rw [htick]
    obtain ⟨began, hbegan', hsum⟩ := ModeBegan.ppuStep c (hppu ▸ hdevices.modeBegan hbegan)
    obtain ⟨-, -, htotal, -, -, hcycles, -⟩ := hdevices
    refine (ht.onSchedule_iff (t := began) ?_).2 hbegan'
    rw [hppu, hcycles] at hsum
    rw [retire_totalCycles, htotal]
    exact hsum.trans (by omega)

end Sys2Proof.Machine
end


section
/-! SUPPORT. Proofs of the statements about the PPU's registers and the OAM copy, and of the table of costs and
lengths. -/

namespace Sys2Proof.Machine

/-! ### The register interface (61_ppu.md R401-R409, 60_exceptions.md R348-R350) -/

/-- The address of a PPU register (10_state.md R34). -/
def PpuReg.address (r : PpuReg) : Word := BitVec.ofNat 16 (0xFF40 + r.offset)

theorem PpuReg.offset_lt (r : PpuReg) : r.offset < 12 := by cases r <;> decide

theorem PpuReg.offset_injective : Function.Injective PpuReg.offset := fun r q h => by
  cases r <;> cases q <;> simp [PpuReg.offset] at h ⊢

theorem PpuReg.address_toNat (r : PpuReg) : r.address.toNat = 0xFF40 + r.offset := by
  have := r.offset_lt
  rw [PpuReg.address, BitVec.toNat_ofNat, Nat.mod_eq_of_lt (by omega)]

theorem region_ppuReg_address (ov : Bool) (r : PpuReg) : region ov r.address = .ppu := by
  cases r <;> simp [region, PpuReg.address_toNat, PpuReg.offset]

theorem ppuRegAt_address (r : PpuReg) : ppuRegAt r.address = r := by
  have := r.offset_lt
  have hoffset := offset_ppuRegAt r.address (by rw [r.address_toNat]; omega) (by rw [r.address_toNat]; omega)
  exact PpuReg.offset_injective (by rw [hoffset, r.address_toNat, Nat.add_sub_cancel_left])

theorem busRead_ppuReg (r : PpuReg) (s : State) : busRead r.address s = s.ppu.readReg r := by
  simp only [busRead, region_ppuReg_address, ppuRegAt_address]

theorem busWrite_ppuReg (r : PpuReg) (v : Byte) (s : State) : busWrite r.address v s = ppuWrite r v s := by
  simp only [busWrite, region_ppuReg_address, ppuRegAt_address]

/-- Settles O34: each register at its address, and IF and IE by the decoder. -/
theorem registerInterface : Obligations.RegisterInterface := fun v _ s =>
  ⟨rfl, rfl, rfl, rfl, rfl, busRead_ppuReg .lcdc s, busRead_ppuReg .stat s, busRead_ppuReg .scy s,
    busRead_ppuReg .scx s, busRead_ppuReg .ly s, busRead_ppuReg .lyc s, busRead_ppuReg .dma s, busRead_ppuReg .bgp s,
    busRead_ppuReg .obp0 s, busRead_ppuReg .obp1 s, busRead_ppuReg .wy s, busRead_ppuReg .wx s,
    busWrite_ppuReg .lcdc v s, busWrite_ppuReg .stat v s, busWrite_ppuReg .scy v s, busWrite_ppuReg .scx v s,
    busWrite_ppuReg .ly v s, busWrite_ppuReg .lyc v s, busWrite_ppuReg .dma v s, busWrite_ppuReg .bgp v s,
    busWrite_ppuReg .obp0 v s, busWrite_ppuReg .obp1 v s, busWrite_ppuReg .wy v s, busWrite_ppuReg .wx v s⟩

/-! ### The OAM copy (61_ppu.md R407) -/

/-- The source of byte `i` of the copy. -/
def copySource (v : Byte) (i : Nat) : Word := BitVec.ofNat 16 (v.toNat * 256 + i)

/-- The state after the first `n` bytes of the copy. -/
def copied (n : Nat) (v : Byte) (s : State) : State := (List.range n).foldl (oamCopyByte v) s

theorem oamCopy_eq_copied (v : Byte) (s : State) : oamCopy v s = copied 160 v s := rfl

theorem copied_succ (n : Nat) (v : Byte) (s : State) :
    copied (n + 1) v s = (copied n v s).writeCell (0xFE00 + n) (busRead (copySource v n) (copied n v s)) := by
  rw [copied, List.range_succ, List.foldl_append]
  rfl

theorem copied_wf (n : Nat) (v : Byte) {s : State} (h : s.mem.wf) : (copied n v s).mem.wf := by
  induction n with
  | zero => exact h
  | succ n ih => rw [copied_succ]; exact Memory.wf_write _ _ _ ih

/-- A source is never an OAM byte already copied: either it lies outside OAM, or it is the byte it goes to. -/
theorem copySource_not_copied {v : Byte} {n : Nat} (h : n < 160) :
    ¬ (0xFE00 ≤ (copySource v n).toNat ∧ (copySource v n).toNat < 0xFE00 + n) := by
  have hv := v.isLt
  simp only [copySource, BitVec.toNat_ofNat]
  omega

/-- The bytes copied read as their sources did before the copy, and the rest as before. -/
theorem busRead_copied {n : Nat} (hn : n ≤ 160) (v : Byte) (b : Word) {s : State} (h : s.mem.wf) :
    busRead b (copied n v s) =
      if 0xFE00 ≤ b.toNat ∧ b.toNat < 0xFE00 + n then busRead (copySource v (b.toNat - 0xFE00)) s else busRead b s := by
  induction n generalizing b with
  | zero => exact (if_neg (by omega)).symm
  | succ n ih =>
    have hsource : busRead (copySource v n) (copied n v s) = busRead (copySource v n) s := by
      rw [ih (by omega), if_neg (copySource_not_copied hn)]
    rw [copied_succ, hsource]
    by_cases hb : b.toNat = 0xFE00 + n
    · have hcell : cellOf b = 0xFE00 + n := by unfold cellOf; rw [if_neg (by omega), hb]
      rw [busRead_storage b _ (decide_eq_true (by omega)), hcell, if_pos (by omega),
        show b.toNat - 0xFE00 = n by omega]
      exact Memory.read_write_self _ _ _ (copied_wf n v h)
    · rw [busRead_writeCell b _ _ _ (by unfold cellOf; split <;> omega), ih (by omega)]
      exact if_congr (by omega) rfl rfl

theorem busRead_oamCopy_oam {i : Nat} (hi : i < 160) (v : Byte) {s : State} (h : s.mem.wf) :
    busRead (BitVec.ofNat 16 (0xFE00 + i)) (oamCopy v s) = busRead (copySource v i) s := by
  have hdest : (BitVec.ofNat 16 (0xFE00 + i)).toNat = 0xFE00 + i := Nat.mod_eq_of_lt (by omega)
  rw [oamCopy_eq_copied, busRead_copied le_rfl v _ h, hdest, if_pos (by omega), Nat.add_sub_cancel_left]

/-- Settles O33: the store sets DMA and copies; the copy writes the cells of OAM only. -/
theorem oamCopy_spec : Obligations.OamCopy := by
  intro v s hwf
  dsimp only
  rw [show busWrite 0xFF46#16 v s = oamCopy v { s with ppu := { s.ppu with dma := v } } from busWrite_ppuReg .dma v s]
  obtain ⟨m, heq⟩ := oamCopy_eq v { s with ppu := { s.ppu with dma := v } }
  refine ⟨fun i hi => busRead_oamCopy_oam hi v hwf, ?_, by rw [heq], fun b => busRead_oamCopy v b _⟩
  rw [heq]
  exact busRead_ppuReg .dma _

/-! ### Costs and lengths (70_reset_and_hazards.md R471, R472) -/

/-- One row of the table: every form of a list has the cost `c` and the length `n`. -/
theorem forms_of_map_eq {s : State} {l : List Instr} {c n : Nat}
    (h : l.map (fun i => (cycles i s, size i)) = List.replicate l.length (c, n)) :
    ∀ i ∈ l, cycles i s = c ∧ size i = n := fun _ hi =>
  Prod.mk.inj (List.eq_of_mem_replicate (h ▸ List.mem_map_of_mem hi))

/-- Settles O21: row by row; a conditional transfer looks at F. -/
theorem costAndLengthTable : Obligations.CostAndLengthTable := fun _ _ _ _ _ _ _ cc s =>
  ⟨forms_of_map_eq rfl, forms_of_map_eq rfl, forms_of_map_eq rfl, forms_of_map_eq rfl, forms_of_map_eq rfl,
    forms_of_map_eq rfl, forms_of_map_eq rfl, forms_of_map_eq rfl, forms_of_map_eq rfl, forms_of_map_eq rfl,
    forms_of_map_eq rfl, forms_of_map_eq rfl, by rw [← State.cond_eq_holds]; exact ⟨rfl, rfl⟩,
    by rw [← State.cond_eq_holds]; exact ⟨rfl, rfl⟩, by rw [← State.cond_eq_holds]; exact ⟨rfl, rfl⟩,
    by rw [← State.cond_eq_holds]; exact ⟨rfl, rfl⟩, rfl, rfl⟩

end Sys2Proof.Machine
end


section
/-! SUPPORT. Proofs of the statements about pixels: the background, the choice of sprites and what drawing one
leaves. -/

namespace Sys2Proof.Machine

/-! ### VRAM and OAM as the bus reads them (20_memory.md R61, 61_ppu.md R400) -/

/-- Below the echo and in OAM the PPU sees the byte the bus reads. -/
theorem byteAt_eq_videoByte {n : Nat} (s : State) (h : (0x8000 ≤ n ∧ n < 0xE000) ∨ (0xFE00 ≤ n ∧ n < 0xFEA0)) :
    byteAt (n : Int) s = videoByte n s := by
  have hn : (BitVec.ofInt 16 (n : Int)).toNat = n := by
    rw [BitVec.ofInt_natCast, BitVec.toNat_ofNat, Nat.mod_eq_of_lt (by omega)]
  have hcell : cellOf (BitVec.ofInt 16 (n : Int)) = n := by rw [cellOf, hn, if_neg (by omega)]
  rw [byteAt, busRead_storage _ s (decide_eq_true (by omega)), hcell, videoByte]

/-- `TilePixel` through the bus (61_ppu.md R418). -/
theorem tilePixel_eq {row : Nat} (x : Nat) (s : State) (hlo : 0x8000 ≤ row) (hhi : row < 0xA000) :
    tilePixel row x s = 2 * ((byteAt ((row : Int) + 1) s).getLsbD (7 - x)).toNat +
      ((byteAt row s).getLsbD (7 - x)).toNat := by
  rw [tilePixel, ← byteAt_eq_videoByte s (by omega), ← byteAt_eq_videoByte s (by omega), Nat.cast_succ]

theorem shade_eq_shadeOf (p : Byte) (i : Nat) : shade p i = shadeOf p i := by
  apply BitVec.eq_of_toNat_eq
  rw [shade, shadeOf, BitVec.extractLsb'_toNat, BitVec.toNat_ofNat, Nat.shiftRight_eq_div_pow, Nat.pow_mul]

/-! ### The background (61_ppu.md R417, R420) -/

/-- Unsigned from 0x8000, or signed from 0x9000 (61_ppu.md R417). -/
theorem bgTileAddr_eq (lcdc t : Byte) : (bgTileAddr lcdc t : Int) =
    if lcdc.getLsbD 4 then 0x8000 + 16 * (t.toNat : Int) else 0x9000 + 16 * t.toInt := by
  have ht := t.isLt
  rw [bgTileAddr, BitVec.toInt_eq_toNat_cond]
  split_ifs <;> omega

theorem bgTileAddr_bounds (lcdc t : Byte) : 0x8000 ≤ bgTileAddr lcdc t ∧ bgTileAddr lcdc t ≤ 0x97F0 := by
  have ht := t.isLt
  unfold bgTileAddr
  split_ifs <;> omega

/-- The entry of the background map for the pixel (`tx`, `ty`) of the map, through the bus. -/
theorem byteAt_bgMap {tx ty : Nat} (s : State) (htx : tx < 256) (hty : ty < 256) :
    byteAt ((if s.ppu.lcdc.getLsbD 3 then 0x9C00 else 0x9800) + 32 * ((ty : Int) / 8) + (tx : Int) / 8) s =
      videoByte ((if s.ppu.lcdc.getLsbD 3 then 0x9C00 else 0x9800) + 32 * (ty / 8) + tx / 8) s := by
  rw [← byteAt_eq_videoByte s (by split_ifs <;> omega)]
  push_cast
  rfl

theorem bgIndex_eq (ly x : Nat) (s : State) : bgIndex ly x s = bgIndexAt ly x s := by
  unfold bgIndex bgIndexAt
  split
  case isFalse => rfl
  case isTrue =>
    dsimp only
    rw [byteAt_bgMap s (Nat.mod_lt _ (by decide)) (Nat.mod_lt _ (by decide)), ← bgTileAddr_eq]
    generalize videoByte _ s = t
    have hbounds := bgTileAddr_bounds s.ppu.lcdc t
    rw [tilePixel_eq _ s (by omega) (by omega)]
    push_cast
    rfl

theorem bgLine_length (ly : Nat) (s : State) : (bgLine ly s).length = 160 := by
  rw [bgLine, List.length_map, List.length_range, Config.screenWidth]

/-- Settles O29: the registers and VRAM bytes `bgIndex` reads are those the bus gives. -/
theorem backgroundLine : Obligations.BackgroundLine := by
  intro s ly x _ hx
  refine ⟨bgIndex_eq ly x s, bgLine_length ly s, ?_⟩
  rw [bgLine, List.getElem?_map, Config.screenWidth, List.getElem?_range hx, Option.map_some, bgShade,
    bgIndex_eq, shade_eq_shadeOf]

/-! ### An all-zero tile (95_test_vectors.md E6) -/

/-- Every pixel of a map that names one all-zero tile has index 0. -/
theorem bgIndexAt_of_zero_tile {t : Byte} {s : State} (hmap : MapIsAll t s) (htile : TileIsZero t s) (ly x : Nat) :
    bgIndexAt ly x s = 0 := by
  unfold bgIndexAt
  dsimp only
  generalize hty : (ly + s.ppu.scy.toNat) % 256 = ty
  generalize htx : (x + s.ppu.scx.toNat) % 256 = tx
  have hentry := hmap (32 * (ty / 8) + tx / 8) (by omega)
  have hlow := htile (2 * (ty % 8)) (by omega)
  have hhigh := htile (2 * (ty % 8) + 1) (by omega)
  push_cast [← add_assoc] at hentry hlow hhigh
  push_cast
  rw [hentry, hlow, hhigh]
  simp

/-- Settles O32: sprites off, each pixel is the palette's shade of index 0. -/
theorem allZeroTileLine : Obligations.AllZeroTileLine := by
  intro s ly t _ hbg hsprites hmap htile
  rw [linePixels, if_neg (Bool.eq_false_iff.1 hsprites)]
  refine List.eq_replicate_iff.2 ⟨bgLine_length ly s, fun v hv => ?_⟩
  obtain ⟨x, -, rfl⟩ := List.mem_map.1 hv
  rw [bgShade, if_pos hbg, bgIndex_eq, bgIndexAt_of_zero_tile hmap htile, shade_eq_shadeOf, shadeOf, pow_zero,
    Nat.div_one]

/-! ### The sprites drawn (61_ppu.md R419, R421) -/

theorem spriteAt_eq {i : Nat} (s : State) (hi : i < 40) : spriteAt i s =
    { index := i, y := (byteAt (0xFE00 + 4 * i) s).toNat, x := (byteAt (0xFE00 + 4 * i + 1) s).toNat,
      tile := byteAt (0xFE00 + 4 * i + 2) s, attr := byteAt (0xFE00 + 4 * i + 3) s } := by
  rw [spriteAt, ← byteAt_eq_videoByte s (by omega), ← byteAt_eq_videoByte s (by omega),
    ← byteAt_eq_videoByte s (by omega), ← byteAt_eq_videoByte s (by omega)]
  push_cast
  rfl

theorem Sprite.before_iff (p q : Sprite) :
    p.before q = true ↔ q.x < p.x ∨ (q.x = p.x ∧ q.index ≤ p.index) := decide_eq_true_iff

theorem Sprite.before_total : Std.Total fun p q : Sprite => p.before q = true :=
  ⟨fun p q => by rw [p.before_iff, q.before_iff]; omega⟩

theorem Sprite.before_trans : IsTrans Sprite fun p q => p.before q = true :=
  ⟨fun p q r => by rw [p.before_iff, q.before_iff, p.before_iff]; omega⟩

/-- The candidates of a line: the entries that cover it, in the order of OAM. -/
def spriteCandidates (ly : Nat) (s : State) : List Sprite :=
  ((List.range 40).map fun i => spriteAt i s).filter fun sp => sp.covers ly (spriteHeight s)

theorem spriteCandidates_eq (ly : Nat) (s : State) : spriteCandidates ly s =
    ((List.range 40).map fun i => spriteAt i s).filter fun sp =>
      decide ((sp.y : Int) - 16 ≤ ly ∧ (ly : Int) < sp.y - 16 + (if s.ppu.lcdc.getLsbD 2 then 16 else 8)) := by
  refine List.filter_congr fun sp _ => decide_eq_decide.2 ?_
  rw [spriteHeight]
  split_ifs <;> omega

theorem spriteCandidates_index_ne (ly : Nat) (s : State) :
    (spriteCandidates ly s).Pairwise fun p q => p.index ≠ q.index := by
  have hall : ((List.range 40).map fun i => spriteAt i s).Pairwise fun p q => p.index ≠ q.index :=
    List.pairwise_map.2 List.nodup_range
  exact hall.filter _

/-- The candidates in drawing order. -/
def spriteOrder (ly : Nat) (s : State) : List Sprite :=
  (spriteCandidates ly s).insertionSort fun p q => p.before q = true

theorem spriteOrder_perm (ly : Nat) (s : State) : (spriteOrder ly s).Perm (spriteCandidates ly s) :=
  List.perm_insertionSort ..

/-- The order is strict, because no two entries have one index. -/
theorem spriteOrder_drawnBefore (ly : Nat) (s : State) : (spriteOrder ly s).Pairwise drawnBefore := by
  have := Sprite.before_total
  have := Sprite.before_trans
  have hsorted : (spriteOrder ly s).Pairwise fun p q => p.before q = true := List.pairwise_insertionSort ..
  have hindex : (spriteOrder ly s).Pairwise fun p q => p.index ≠ q.index :=
    ((spriteOrder_perm ly s).pairwise_iff Ne.symm).2 (spriteCandidates_index_ne ly s)
  refine (hsorted.and hindex).imp fun {p q} ⟨hbefore, hne⟩ => ?_
  rw [p.before_iff] at hbefore
  unfold drawnBefore
  omega

/-- Settles O30: the entries through the bus, the candidates sorted, the first ten drawn. -/
theorem spriteSelection : Obligations.SpriteSelection := fun s ly =>
  ⟨fun _ => spriteAt_eq s,
    ⟨spriteOrder ly s, spriteCandidates_eq ly s ▸ spriteOrder_perm ly s, spriteOrder_drawnBefore ly s, rfl⟩, rfl⟩

/-! ### Drawing a sprite (61_ppu.md R422) -/

/-- The first tile of the pair of a 16-line sprite. -/
theorem and_0xFE_toNat (t : Byte) : (t &&& 0xFE#8).toNat = t.toNat / 2 * 2 := by
  have hclear : t &&& 0xFE#8 = (t >>> 1) <<< 1 := by
    ext i hi
    interval_cases i <;> simp
  have ht := t.isLt
  rw [hclear, BitVec.toNat_shiftLeft, BitVec.toNat_ushiftRight, Nat.shiftLeft_eq, Nat.shiftRight_eq_div_pow]
  omega

/-- The row of a sprite on a line it covers, in the tiles from 0x8000 to 0x8FFF. -/
theorem Sprite.rowAddr_bounds {sp : Sprite} {ly : Nat} {s : State} (hlo : sp.y ≤ ly + 16)
    (hhi : ly + 16 < sp.y + spriteHeight s) :
    0x8000 ≤ sp.rowAddr ly (spriteHeight s) ∧ sp.rowAddr ly (spriteHeight s) < 0x9000 := by
  have ht := sp.tile.isLt
  unfold Sprite.rowAddr spriteHeight at *
  split_ifs at * <;> simp only [and_0xFE_toNat] <;> omega

/-- The sprite's pixel through the bus (61_ppu.md R418, R422). -/
theorem spriteIndexAt_eq {sp : Sprite} {ly : Nat} (px : Nat) {s : State} (hlo : sp.y ≤ ly + 16)
    (hhi : ly + 16 < sp.y + spriteHeight s) :
    spriteIndexAt sp ly px s =
      tilePixel (sp.rowAddr ly (spriteHeight s)) (if sp.attr.getLsbD 5 then 7 - px else px) s := by
  obtain ⟨hrowlo, hrowhi⟩ := Sprite.rowAddr_bounds hlo hhi
  rw [tilePixel_eq _ s hrowlo (by omega)]
  have htile : (if spriteHeight s = 16 then sp.tile &&& 0xFE#8 else sp.tile).toNat =
      if spriteHeight s = 16 then sp.tile.toNat / 2 * 2 else sp.tile.toNat := by
    rw [apply_ite BitVec.toNat, and_0xFE_toNat]
  simp only [Sprite.rowAddr, htile]
  rfl

theorem spritePixel_of_column {sp : Sprite} {ly px x : Nat} {s : State} (hpx : px < 8) (hcol : sp.x + px = x + 8)
    (hlo : sp.y ≤ ly + 16) (hhi : ly + 16 < sp.y + spriteHeight s) (old : Shade) :
    spritePixel sp ly x s old =
      let idx := tilePixel (sp.rowAddr ly (spriteHeight s)) (if sp.attr.getLsbD 5 then 7 - px else px) s
      if idx = 0 then old
      else if sp.attr.getLsbD 7 ∧ bgIndex ly x s ≠ 0 then old
      else shade (if sp.attr.getLsbD 4 then s.ppu.obp1 else s.ppu.obp0) idx := by
  have hcolumn : x + 8 - sp.x = px := by omega
  have hreach : sp.x ≤ x + 8 ∧ x + 8 < sp.x + 8 := by omega
  simp only [spritePixel, hcolumn, spriteIndexAt_eq px hlo hhi, ← bgIndex_eq, ← shade_eq_shadeOf, hreach, true_and]
  generalize shade _ _ = v
  generalize tilePixel _ _ s = idx
  split_ifs <;> tauto

/-- A pixel of a sprite is drawn at its own column only. -/
theorem getElem?_drawSpritePixel {sp : Sprite} {ly px x : Nat} {s : State} (pix : List Shade) (hpx : px < 8)
    (hx : x < 160) (hlo : sp.y ≤ ly + 16) (hhi : ly + 16 < sp.y + spriteHeight s) :
    (drawSpritePixel sp ly s pix px)[x]? =
      if sp.x + px = x + 8 then (pix[x]?).map (spritePixel sp ly x s) else pix[x]? := by
  unfold drawSpritePixel
  dsimp only
  by_cases hcol : sp.x + px = x + 8
  · have hsx : sp.x + px - 8 = x := by omega
    rw [if_pos hcol, hsx, if_neg (by unfold Config.screenWidth; omega)]
    simp only [funext (spritePixel_of_column hpx hcol hlo hhi)]
    generalize shade _ _ = v
    generalize tilePixel _ _ s = idx
    split_ifs
    · exact (Option.map_id' ..).symm
    · exact (Option.map_id' ..).symm
    · exact List.getElem?_set_self'
  · rw [if_neg hcol]
    generalize shade _ _ = v
    generalize tilePixel _ _ s = idx
    split_ifs with hoff
    · rfl
    · rfl
    · rfl
    · exact List.getElem?_set_ne (by omega)

/-- The first `n` pixels of a sprite. -/
theorem getElem?_drawSprite_columns {sp : Sprite} {ly n x : Nat} {s : State} (pix : List Shade) (hn : n ≤ 8)
    (hx : x < 160) (hlo : sp.y ≤ ly + 16) (hhi : ly + 16 < sp.y + spriteHeight s) :
    ((List.range n).foldl (drawSpritePixel sp ly s) pix)[x]? =
      if sp.x ≤ x + 8 ∧ x + 8 < sp.x + n then (pix[x]?).map (spritePixel sp ly x s) else pix[x]? := by
  induction n with
  | zero => rw [if_neg (by omega)]; rfl
  | succ n ih =>
    rw [List.range_succ, List.foldl_append, List.foldl_cons, List.foldl_nil,
      getElem?_drawSpritePixel _ (by omega) hx hlo hhi, ih (by omega)]
    by_cases hcol : sp.x + n = x + 8
    · rw [if_pos hcol, if_neg (by omega), if_pos (by omega)]
    · rw [if_neg hcol]
      exact if_congr (by omega) rfl rfl

/-- Beyond its eight columns a sprite leaves the line as it was. -/
theorem spritePixel_of_not_reached {sp : Sprite} {ly x : Nat} {s : State} (h : ¬ (sp.x ≤ x + 8 ∧ x + 8 < sp.x + 8)) :
    spritePixel sp ly x s = id :=
  funext fun _ => if_neg fun ⟨hlo, hhi, _⟩ => h ⟨hlo, hhi⟩

/-- Settles O31: the eight pixels one after the other, each at its own column. -/
theorem spritePixels : Obligations.SpritePixels := by
  intro s i ly x pix sp _ _ _ hx hlo hhi
  rw [drawSprite, getElem?_drawSprite_columns pix le_rfl hx hlo hhi]
  split
  case isTrue => rfl
  case isFalse h => rw [spritePixel_of_not_reached h, Option.map_id, id]

end Sys2Proof.Machine
end
